-- ==== Sys2Proof/Word.lean ====
section
/-! DEFINITION. The words of the block: a byte and the operation word (spec 00 R11, 30 R45).
The sum `a +8 b` of R12 is the addition of `BitVec 8`, which wraps modulo 256. -/

namespace Sys2Proof

/-- An 8-bit unsigned value, bit 0 least significant (R11). -/
abbrev Byte := BitVec 8

/-- The operation word `w[9:0]` = `op[1:0]` above `din[7:0]` (R45). -/
abbrev OpWord := BitVec 10

end Sys2Proof
end

