-- ==== Sys2Proof/Assembly.lean ====
section
/-! DEFINITION. The abstract form of one line of the spec's assembler (spec 30 R52 to R55): the three core
operations and the pseudo-instructions SYNC, FRAME and RAW. Literals are numbers as written, so a literal
outside 0..255 can be written and is refused by `AsmLine.wellFormed`. -/

namespace Sys2Proof

/-- One assembler line that holds an operation. -/
inductive AsmLine where
  | nop
  | byte (v : Nat)
  | ack
  /-- Expands to `BYTE SYNC_BYTE` (R53). -/
  | sync
  /-- Expands to one well-formed frame with this payload (R54). -/
  | frame (payload : List Nat)
  /-- Expands to one BYTE for each literal (R55). -/
  | raw (bytes : List Nat)
  deriving DecidableEq, Repr

end Sys2Proof
end

