-- ==== Sys2Proof/Config.lean ====
section
/-! DEFINITION. The configuration of an instance: the pair (MAX_PAYLOAD_SIZE, SYNC_BYTE), fixed when the
block is built (spec 00 R5, R6, R9; D5, D6). The spec leaves both open; the model takes them as data. -/

namespace Sys2Proof

/-- One configuration. MAX_PAYLOAD_SIZE is 1..254 (R5), so it is given by the greatest index of a buffer
cell, 0..253: every value of this type is a legal configuration (log 1). -/
structure Config where
  /-- MAX_PAYLOAD_SIZE - 1, the greatest index of a buffer cell (R21, R30). -/
  lastCell : Fin 254
  /-- SYNC_BYTE (R6). -/
  syncByte : Byte
  deriving DecidableEq, Repr

/-- MAX_PAYLOAD_SIZE, the number of buffer cells (R5). -/
def Config.maxPayloadSize (c : Config) : Nat := c.lastCell.val + 1

/-- MAX_PAYLOAD_SIZE = 8 and SYNC_BYTE = 0xAA. The second is the spec's default (R6); the first is the size
of the spec's own vectors. DESIGN CHOICE (log 2), unsafe: no statement rests on it. -/
def Config.standard : Config := ⟨7, 0xAA#8⟩

end Sys2Proof
end

