-- ==== Sys2Proof/Syntax.lean ====
section
/-! DEFINITION. The operations of the block, one constructor for each row of spec/opcode_table.json. -/

namespace Sys2Proof

/-- The three operations (spec 30 R45). NOP and ACK have no operand: their `din` is ignored (R50). -/
inductive Instr where
  /-- Poll with no byte available (R46, R57). -/
  | nop
  /-- Poll with the byte `b` available (R47, R58). -/
  | byte (b : Byte)
  /-- Acknowledge (R48, R77). -/
  | ack
  deriving DecidableEq, Repr

end Sys2Proof
end

