-- ==== Sys2Proof/WellFormed.lean ====
section
/-! DEFINITION. Which terms stand for something the block can be given. An operand of a core operation is a
byte by its type, so every `Instr` is well formed; the checks are the assembler's (spec 30 R52, R54). -/

namespace Sys2Proof

/-- Every operation has an encoding: the type of BYTE's operand is the field `din[7:0]` itself (R45 to R48). -/
def Instr.wellFormed : Instr → Bool
  | .nop => true
  | .byte _ => true
  | .ack => true

/-- A byte literal is 0..255 (R52: outside it, an assembly error). -/
def isByteLiteral (v : Nat) : Bool := decide (v < 256)

/-- The assembler accepts the line: literals are bytes (R52), FRAME has 1..MAX_PAYLOAD_SIZE of them (R54),
RAW has at least one (R55). -/
def AsmLine.wellFormed (c : Config) : AsmLine → Bool
  | .nop => true
  | .byte v => isByteLiteral v
  | .ack => true
  | .sync => true
  | .frame p => p.all isByteLiteral && decide (1 ≤ p.length) && decide (p.length ≤ c.maxPayloadSize)
  | .raw bs => bs.all isByteLiteral && decide (1 ≤ bs.length)

end Sys2Proof
end

