-- ==== Sys2Proof/Decode.lean ====
section
/-! DEFINITION. The operation word: its fields, the decoder, the encoder, and the opcode table's numbering of
its bits (spec 30 R45 to R51; opcode_table.json). -/

namespace Sys2Proof

/-- What the decoder says of a word: an operation, or the reserved encoding, by name (R49). -/
inductive Decoded where
  | instr (i : Instr)
  /-- `w[9:8]` = 11 spells no operation (R49). -/
  | reservedOp
  deriving DecidableEq, Repr

/-- The operation a word was decoded to, if any. -/
def Decoded.instr? : Decoded → Option Instr
  | .instr i => some i
  | .reservedOp => none

/-- `op` = `w[9:8]` (R45). -/
def opField (w : OpWord) : BitVec 2 := w.extractLsb' 8 2

/-- `din` = `w[7:0]` (R45). -/
def dinField (w : OpWord) : Byte := w.extractLsb' 0 8

/-- Decoding looks at `w[9:8]` alone (R51); NOP and ACK drop `din` (R50). -/
def decode (w : OpWord) : Decoded :=
  if opField w = 0b00#2 then .instr .nop
  else if opField w = 0b01#2 then .instr (.byte (dinField w))
  else if opField w = 0b10#2 then .instr .ack
  else .reservedOp

/-- A word from its two fields, `op` in the high bits (R45, R11). -/
def opWord (op : BitVec 2) (din : Byte) : OpWord := op ++ din

/-- The word of an operation (R46 to R48); the assembler writes an ignored `din` as 0x00 (R50). -/
def encode : Instr → OpWord
  | .nop => opWord 0b00#2 0x00#8
  | .byte b => opWord 0b01#2 b
  | .ack => opWord 0b10#2 0x00#8

/-- The 10 bits the operation port sees of an instruction numbered as opcode_table.json numbers it: bit 0 is
bit 0 of the word, bits at or above `nbits` are 0, and the port has no wire above bit 9 (R45; log 15). -/
def tableWord (nbits w : Nat) : OpWord := BitVec.ofNat 10 (w % 2 ^ nbits)

/-- The operation the decoder reads from a word given as the opcode table numbers its bits. -/
def decodeTableWord (nbits w : Nat) : Option Instr := (decode (tableWord nbits w)).instr?

end Sys2Proof
end

