-- ==== Sys2Proof/Machine/Constants.lean ====
section
/-! DEFINITION. The named derived constants (spec 00 R7, R8). -/

namespace Sys2Proof.Machine

/-- SENTINEL = 0xFF, "no packet" (R7, D7). -/
def sentinel : Byte := 0xFF#8

/-- SEED = (SYNC_BYTE + SYNC_BYTE) mod 256 (R8). -/
def seed (c : Config) : Byte := c.syncByte + c.syncByte

/-- LEN_MIN = 2, the smallest LEN byte accepted (R8; C2). -/
def lenMin : Nat := 2

/-- LEN_MAX = MAX_PAYLOAD_SIZE + 1, the largest LEN byte accepted (R8; C1). -/
def lenMax (c : Config) : Nat := c.maxPayloadSize + 1

end Sys2Proof.Machine
end

