-- ==== Sys2Proof/Machine/Memory.lean ====
section
/-! DEFINITION. The store behind the Payload Buffer (spec 10 R21, 20 R30): a list of (index, byte) pairs in one
canonical form. A cell that is not listed holds no value (R21, D8; log 9), so there is no listed entry to leave
out for holding the default. -/

namespace Sys2Proof.Machine

/-- The listed cells, indices strictly rising. -/
abbrev Memory := List Host.Cell

/-- The canonical form: indices strictly rising, so equal memories are equal lists. -/
abbrev Memory.wf (m : Memory) : Prop := m.Pairwise fun c d => c.1 < d.1

/-- What cell `i` holds: a byte, or no value. -/
def Memory.read : Memory → Nat → Option Byte
  | [], _ => none
  | (j, v) :: m, i => if i = j then some v else Memory.read m i

/-- Write one cell, keeping the canonical form. -/
def Memory.write : Memory → Nat → Byte → Memory
  | [], i, b => [(i, b)]
  | (j, v) :: m, i, b =>
    if i < j then (i, b) :: (j, v) :: m
    else if i = j then (i, b) :: m
    else (j, v) :: Memory.write m i b

end Sys2Proof.Machine
end

