-- ==== Sys2Proof/Machine/State.lean ====
section
/-! DEFINITION. The state of the machine, what its port carries, why a step can stop, and the state after
reset (spec 10 R15 to R29; 70 R99). -/

namespace Sys2Proof.Machine

/-- `st`, the Decoder State: a closed set of six (R16). -/
inductive DecoderState where
  | awaitingSync
  | syncByte1Seen
  /-- Entered after the second sync byte; the LEN byte is awaited here (00 glossary). -/
  | lengthReceived
  | accumulatingPayload
  | checksumPending
  | payloadReady
  deriving DecidableEq, Repr

/-- The inputs the host presents in one step (R45, R80, R99; D16). -/
structure PortInput where
  /-- The reset input `rst`, active high (R99). -/
  rst : Bool
  /-- The operation word `w[9:0]` (R45). -/
  word : OpWord
  /-- The read port's index `rd_addr[7:0]` (R80). -/
  rdAddr : Byte
  deriving DecidableEq, Repr

/-- The outputs of one step (R23 to R26; D12, D13, D16). -/
structure Outputs where
  take : Bool
  ready : Bool
  len : Byte
  /-- `rd_data` where it is defined; `none` where the spec gives it no value (R81). -/
  rdData : Option Byte
  deriving DecidableEq, Repr

/-- The block's five items of state (R15), with the configuration of the instance (R9, log 1) and the inputs
the host will present in the coming steps, oldest first (R10, D16, log 3). -/
structure State where
  /-- The configuration. No step writes it (R9). -/
  cfg : Config
  /-- Decoder State (R16). -/
  st : DecoderState
  /-- `exp_len`, Expected Payload Length (R18). -/
  expLen : Byte
  /-- `fill`, Fill Count (R19). -/
  fill : Byte
  /-- `chk`, Running Checksum (R20). -/
  chk : Byte
  /-- `buf`, the Payload Buffer (R21). -/
  buf : Memory
  /-- The port inputs of the coming steps; the model's own field (log 3). -/
  pending : List PortInput
  deriving DecidableEq, Repr

/-- Why the machine can stop with a fault. The block itself has no exception (60 R86). -/
inductive Fault where
  /-- Raised by BYTE in AccumulatingPayload when `fill` names no cell of the buffer (20 R30, R36). Safe: R36
  says a run never gets there, and the model then claims nothing (log 7). -/
  | noSuchCell
  deriving DecidableEq, Repr

/-- Why a step can be refused. -/
inductive Refusal where
  /-- Raised by an arm of `exec` whose instruction has no meaning yet. No arm does: every row of the opcode
  table has its meaning. Safe. -/
  | notModelled (mnemonic : String)
  /-- Raised by a step whose operation word has `w[9:8]` = 11 (30 R49, 60 R91, D3). Safe: no claim is made
  about such a run (log 6). -/
  | reservedOperation
  /-- Raised by a step for which the host has presented nothing (D16: a finite run says nothing of what was
  not presented). Safe (log 4). -/
  | noOperationPresented
  deriving DecidableEq, Repr

/-- The state after reset of the instance with configuration `c`: the values of R29 and R99 (`exp_len`, `fill`,
`chk` and the buffer by D8, the spec's own decision), with nothing presented yet (log 3, 5). -/
def State.resetOf (c : Config) : State where
  cfg := c
  st := .awaitingSync
  expLen := sentinel
  fill := 0x00#8
  chk := 0x00#8
  buf := []
  pending := []

/-- The machine right after reset, in the configuration of the spec's vectors (log 2). -/
def State.reset : State := State.resetOf Config.standard

end Sys2Proof.Machine
end

