-- ==== Sys2Proof/Machine/Operands.lean ====
section
/-! DEFINITION. The operand of BYTE as each state reads it: a LEN byte, a payload byte with the cell it goes to,
a checksum byte (spec 30 R42, R44; 40 R64 to R68). -/

namespace Sys2Proof.Machine

/-- The LEN byte is in the accepted window, LEN_MIN <= b <= LEN_MAX, compared unsigned (R64, R51). -/
def lenAccepted (c : Config) (b : Byte) : Bool :=
  decide (lenMin ≤ b.toNat) && decide (b.toNat ≤ lenMax c)

/-- The Expected Payload Length of an accepted LEN byte, LEN - 1 (R44, R65). -/
def expectedLength (b : Byte) : Byte := b - 1#8

/-- The Running Checksum seeded from the two sync bytes and the LEN byte (R65). -/
def seededChecksum (c : Config) (b : Byte) : Byte := seed c + b

/-- The index of the buffer cell a payload byte is stored to, the value of `fill` (R30, R66). -/
def State.storeIndex (s : State) : Nat := s.fill.toNat

/-- The index names a cell of the buffer (R30, R36). -/
def State.cellExists (s : State) (i : Nat) : Bool := decide (i < s.cfg.maxPayloadSize)

/-- The cell an operation stores to, if it stores: only BYTE in AccumulatingPayload does (R31). -/
def State.storeAddress (s : State) : Instr → Option Nat
  | .byte _ => if s.st = .accumulatingPayload then some s.storeIndex else none
  | .nop => none
  | .ack => none

end Sys2Proof.Machine
end

