-- ==== Sys2Proof/Machine/Flags.lean ====
section
/-! DEFINITION. The one status flag and the values derived from the state (spec 10 R23 to R25; 40 R70). -/

namespace Sys2Proof.Machine

/-- `ready`: 1 exactly in PayloadReady (R23). -/
def State.ready (s : State) : Bool := decide (s.st = .payloadReady)

/-- `len`: `exp_len` in PayloadReady, else SENTINEL (R24). -/
def State.len (s : State) : Byte := if s.ready then s.expLen else sentinel

/-- The exposed form of the poll result: a length when `ready` = 1, else none (R70). -/
def State.pollResult (s : State) : Option Byte := if s.ready then some s.len else none

/-- A byte presented now is consumed: in every state but PayloadReady (R25, R58, R69). -/
def State.takesByte (s : State) : Bool := !s.ready

/-- The operation consumes a byte in this state; only BYTE can (R25, R57, R77). -/
def State.takes (s : State) : Instr → Bool
  | .byte _ => s.takesByte
  | .nop => false
  | .ack => false

/-- A frame whose LEN was accepted is being received or is held: the states in which `exp_len`, `fill` and
`chk` are the frame's and not stale (R27, R28). -/
def State.inFrame (s : State) : Bool :=
  match s.st with
  | .awaitingSync => false
  | .syncByte1Seen => false
  | .lengthReceived => false
  | .accumulatingPayload => true
  | .checksumPending => true
  | .payloadReady => true

end Sys2Proof.Machine
end

