-- ==== Sys2Proof/Machine/Ops.lean ====
section
/-! DEFINITION. The named operations the meanings are built from: register writes, the buffer write,
resynchronisation and reset. A right-hand side reads the values held at the start of the step, and a register
not written keeps its value (spec 00 R13). -/

namespace Sys2Proof.Machine

/-- `st <- x`. -/
def State.setSt (s : State) (x : DecoderState) : State := { s with st := x }

/-- `exp_len <- v`. -/
def State.setExpLen (s : State) (v : Byte) : State := { s with expLen := v }

/-- `fill <- v`. -/
def State.setFill (s : State) (v : Byte) : State := { s with fill := v }

/-- `chk <- v`. -/
def State.setChk (s : State) (v : Byte) : State := { s with chk := v }

/-- The buffer's new contents; only `State.storeCell` uses it. -/
def State.setBuf (s : State) (m : Memory) : State := { s with buf := m }

/-- The inputs that remain to be presented; only fetching an input and presenting one use it. -/
def State.setPending (s : State) (ps : List PortInput) : State := { s with pending := ps }

/-- `buf[i] <- b`, that is `MemWrite(i, 1, b)` (R13). An index that names no cell faults (R36, log 7). -/
def State.storeCell (s : State) (i : Nat) (b : Byte) : Host.Outcome State Fault Refusal :=
  if s.cellExists i then .next (s.setBuf (s.buf.write i b)) else .fault .noSuchCell

/-- `MemRead(i, 1)`: what cell `i` holds, a byte or no value (R13, R21). -/
def State.readCell (s : State) (i : Nat) : Option Byte := s.buf.read i

/-- Resynchronisation, the response to every framing error and the block's only analogue of taking an
exception: it saves nothing and writes only `st` (40 R63, 60 R89, D18; log 11). Nothing returns from it (R90). -/
def State.resync (s : State) : State := s.setSt .awaitingSync

/-- A step with `rst` = 1: every register and cell at its reset value (70 R99). The configuration is not state
(R9), and what the host presents later is the host's. -/
def State.applyReset (s : State) : State := (State.resetOf s.cfg).setPending s.pending

end Sys2Proof.Machine
end

