-- ==== Sys2Proof/Machine/Acknowledge.lean ====
section
/-! DEFINITION. The acknowledge operation ACK (spec 41 R77, R78). -/

namespace Sys2Proof.Machine

/-- ACK: `exp_len <- SENTINEL`, `st <- AwaitingSync`, in every state (R77, R78, D10; log 12). `fill`, `chk` and
the buffer are not written. -/
def execAck (s : State) : Host.Outcome State Fault Refusal :=
  .next ((s.setExpLen sentinel).setSt .awaitingSync)

end Sys2Proof.Machine
end

