-- ==== Sys2Proof/Machine/Poll.lean ====
section
/-! DEFINITION. The poll operations NOP and BYTE: one definition for each row of the state machine
(spec 40 R56 to R69). -/

namespace Sys2Proof.Machine

/-- NOP: no register and no cell is written (R57). -/
def execNop (s : State) : Host.Outcome State Fault Refusal := .next s

/-- BYTE in AwaitingSync (R59, R60). -/
def byteAwaitingSync (b : Byte) (s : State) : Host.Outcome State Fault Refusal :=
  if b = s.cfg.syncByte then .next (s.setSt .syncByte1Seen) else .next s

/-- BYTE in SyncByte1Seen (R61; R62, BadSync). -/
def byteSyncByte1Seen (b : Byte) (s : State) : Host.Outcome State Fault Refusal :=
  if b = s.cfg.syncByte then .next (s.setSt .lengthReceived) else .next s.resync

/-- The writes of an accepted LEN byte (R65). -/
def State.acceptLength (s : State) (b : Byte) : State :=
  (((s.setExpLen (expectedLength b)).setFill 0x00#8).setChk (seededChecksum s.cfg b)).setSt .accumulatingPayload

/-- BYTE in LengthReceived (R65; R64, BadLength; C1, C2). -/
def byteLengthReceived (b : Byte) (s : State) : Host.Outcome State Fault Refusal :=
  if lenAccepted s.cfg b then .next (s.acceptLength b) else .next s.resync

/-- The state after a payload byte: ChecksumPending when the incremented count reached `exp_len` (R66). -/
def State.afterPayloadByte (s : State) : DecoderState :=
  if s.fill + 1#8 = s.expLen then .checksumPending else s.st

/-- BYTE in AccumulatingPayload: store, count, accumulate (R66). `t` is `s` with the cell written, so its other
registers are the values held at the start of the step. -/
def byteAccumulatingPayload (b : Byte) (s : State) : Host.Outcome State Fault Refusal :=
  match s.storeCell s.storeIndex b with
  | .next t => .next (((t.setFill (s.fill + 1#8)).setChk (s.chk + b)).setSt s.afterPayloadByte)
  | .fault r => .fault r
  | .refused r => .refused r

/-- BYTE in ChecksumPending (R67; R68, BadChecksum). -/
def byteChecksumPending (b : Byte) (s : State) : Host.Outcome State Fault Refusal :=
  if b = s.chk then .next (s.setSt .payloadReady) else .next s.resync

/-- A byte that is consumed: exactly one row applies, selected by `st` (R58). PayloadReady consumes none (R69). -/
def consumeByte (b : Byte) (s : State) : Host.Outcome State Fault Refusal :=
  match s.st with
  | .awaitingSync => byteAwaitingSync b s
  | .syncByte1Seen => byteSyncByte1Seen b s
  | .lengthReceived => byteLengthReceived b s
  | .accumulatingPayload => byteAccumulatingPayload b s
  | .checksumPending => byteChecksumPending b s
  | .payloadReady => .next s

/-- BYTE: a byte that is not taken changes nothing (R58, R69; C4). -/
def execByte (b : Byte) (s : State) : Host.Outcome State Fault Refusal :=
  if s.takesByte then consumeByte b s else .next s

end Sys2Proof.Machine
end

