-- ==== Sys2Proof/Machine/Dispatch.lean ====
section
/-! DEFINITION. One arm for each operation of the opcode table, each one call of its meaning (spec 40 R56). -/

namespace Sys2Proof.Machine

def exec (i : Instr) (s : State) : Host.Outcome State Fault Refusal :=
  match i with
  | .nop => Sys2Proof.Machine.execNop s
  | .byte b => Sys2Proof.Machine.execByte b s
  | .ack => Sys2Proof.Machine.execAck s

end Sys2Proof.Machine
end

