-- ==== Sys2Proof/Machine/ReadPort.lean ====
section
/-! DEFINITION. The buffer read port: a combinational read of the contents held at the start of the step, with
no effect on any operation (spec 41 R80 to R83). -/

namespace Sys2Proof.Machine

/-- `rd_data` is defined only in PayloadReady at an index below `exp_len` (R81). -/
def State.readDefined (s : State) (a : Byte) : Bool := s.ready && decide (a.toNat < s.expLen.toNat)

/-- `rd_data` for `rd_addr` = `a`: the cell's byte where the read is defined, else no value (R80, R81, D13;
log 8; `s` is the state before the step, so the ACK step still has a value, the model's choice, log 20). -/
def State.rdData (s : State) (a : Byte) : Option Byte :=
  if s.readDefined a then s.readCell a.toNat else none

end Sys2Proof.Machine
end

