-- ==== Sys2Proof/Machine/Port.lean ====
section
/-! DEFINITION. The operation port: what one step does with the inputs presented to it, the outputs it gives
back, and how the host presents an operation (spec 10 R23 to R26; 30 R45; 60 R91, R93; 70 R99). -/

namespace Sys2Proof.Machine

/-- One step with the inputs `inp`: reset has priority over the operation word (R93, R99); the reserved word is
refused (R91). -/
def runInput (inp : PortInput) (s : State) : Host.Outcome State Fault Refusal :=
  if inp.rst then .next s.applyReset
  else match decode inp.word with
    | .instr i => exec i s
    | .reservedOp => .refused .reservedOperation

/-- `take`: the operation presented is BYTE, `st` is not PayloadReady and reset is not asserted (R25). -/
def take (inp : PortInput) (s : State) : Bool :=
  if inp.rst then false
  else match decode inp.word with
    | .instr i => s.takes i
    | .reservedOp => false

/-- The outputs of the step from `s` to `t` under the inputs `inp`: `take` and `rd_data` from the state before
the step, `ready` and `len` from the state after it (R80, R108, D12). DESIGN CHOICE (log 20), unsafe: in the ACK
step itself, where R102 calls `rd_data` unspecified and R39, R79, R80 and R81 do not, the state before the step is
still PayloadReady and `rd_data` is the payload byte. -/
def outputs (inp : PortInput) (s t : State) : Outputs where
  take := take inp s
  ready := t.ready
  len := t.len
  rdData := s.rdData inp.rdAddr

/-- The host presents one operation, with reset not asserted and `rd_addr` = 0. -/
def PortInput.ofInstr (i : Instr) : PortInput := ⟨false, encode i, 0x00#8⟩

/-- The host presents a list of bytes, one BYTE operation each (R58). -/
def byteInputs (bs : List Byte) : List PortInput := bs.map fun b => PortInput.ofInstr (.byte b)

/-- The host presents this input before all it was going to present. -/
def State.presentFirst (s : State) (inp : PortInput) : State := s.setPending (inp :: s.pending)

end Sys2Proof.Machine
end

