-- ==== Sys2Proof/Machine/Step.lean ====
section
/-! DEFINITION. One step of the machine: the next input the host presents is applied (spec 40 R56, 70 R99). -/

namespace Sys2Proof.Machine

/-- One active clock edge (R2): take the next input off the list and apply it. With nothing presented there is
no step to take (D16; log 4). -/
def step (s : State) : Host.Outcome State Fault Refusal :=
  match s.pending with
  | [] => .refused .noOperationPresented
  | inp :: rest => runInput inp (s.setPending rest)

/-- The host presents the word next, with reset not asserted (log 3, 15): the very next step decodes and runs it. -/
def State.withFetchWord (s : State) (nbits w : Nat) : State :=
  s.presentFirst ⟨false, tableWord nbits w, 0x00#8⟩

end Sys2Proof.Machine
end

