-- ==== Sys2Proof/Machine/Frame.lean ====
section
/-! DEFINITION. The frame format of the wire: SYNC SYNC LEN PAYLOAD[LEN-1] CHECKSUM (spec 30 R42 to R44). -/

namespace Sys2Proof.Machine

/-- The sum of the bytes modulo 256 (R42, R72). -/
def byteSum : List Byte → Byte
  | [] => 0x00#8
  | b :: bs => b + byteSum bs

/-- The LEN byte of a payload: its length plus one (R42, R44). -/
def lenByte (p : List Byte) : Byte := BitVec.ofNat 8 (p.length + 1)

/-- CHECKSUM = (SYNC + SYNC + LEN + sum(PAYLOAD)) mod 256 (R42). -/
def frameChecksum (c : Config) (p : List Byte) : Byte := seed c + lenByte p + byteSum p

/-- The payload can be framed: 1 to MAX_PAYLOAD_SIZE bytes (R42, R54). -/
abbrev framable (c : Config) (p : List Byte) : Prop := 1 ≤ p.length ∧ p.length ≤ c.maxPayloadSize

/-- The bytes of the frame that carries the payload `p` (R42). -/
def frameBytes (c : Config) (p : List Byte) : List Byte :=
  c.syncByte :: c.syncByte :: lenByte p :: (p ++ [frameChecksum c p])

end Sys2Proof.Machine
end

