-- ==== Sys2Proof/Machine/Assembler.lean ====
section
/-! DEFINITION. The spec's assembler: expansion of a line to operations, and the text of a line
(spec 30 R52 to R55, D17). It is no part of the block. -/

namespace Sys2Proof.Machine

/-- The BYTE operation of a literal (R52). -/
def byteOfLiteral (v : Nat) : Byte := BitVec.ofNat 8 v

/-- The operations a line stands for, if it is accepted (R52 to R55). -/
def expansion (c : Config) : AsmLine → List Instr
  | .nop => [.nop]
  | .byte v => [.byte (byteOfLiteral v)]
  | .ack => [.ack]
  | .sync => [.byte c.syncByte]
  | .frame p => (frameBytes c (p.map byteOfLiteral)).map .byte
  | .raw bs => bs.map fun v => .byte (byteOfLiteral v)

/-- Expansion with the assembler's checks: `none` is an assembly error (R52, R54). -/
def expand (c : Config) (l : AsmLine) : Option (List Instr) :=
  if l.wellFormed c then some (expansion c l) else none

/-- A token that is not empty, as a list. -/
def flushToken (t : List Char) : List (List Char) := if t.isEmpty then [] else [t]

/-- The tokens of a line, with `cur` read so far: spaces and tabs separate, a comma is a token, a semicolon
starts a comment (R52, R54). -/
def tokensFrom (cur : List Char) : List Char → List (List Char)
  | [] => flushToken cur
  | ch :: rest =>
    if ch = ';' then flushToken cur
    else if ch = ' ' ∨ ch = '\t' then flushToken cur ++ tokensFrom [] rest
    else if ch = ',' then flushToken cur ++ [','] :: tokensFrom [] rest
    else tokensFrom (cur ++ [ch]) rest

/-- The value of a decimal digit. -/
def decDigit (ch : Char) : Option Nat :=
  if '0' ≤ ch ∧ ch ≤ '9' then some (ch.toNat - '0'.toNat) else none

/-- The value of a hexadecimal digit, of either case (log 19). -/
def hexDigit (ch : Char) : Option Nat :=
  if '0' ≤ ch ∧ ch ≤ '9' then some (ch.toNat - '0'.toNat)
  else if 'A' ≤ ch ∧ ch ≤ 'F' then some (ch.toNat - 'A'.toNat + 10)
  else if 'a' ≤ ch ∧ ch ≤ 'f' then some (ch.toNat - 'a'.toNat + 10)
  else none

/-- The value of a decimal numeral, with `acc` read so far. -/
def decimalFrom (acc : Nat) : List Char → Option Nat
  | [] => some acc
  | ch :: rest => (decDigit ch).bind fun d => decimalFrom (10 * acc + d) rest

/-- A byte literal, `0xNN` or decimal (R52). A decimal above 255 is read and then refused by the line's check. -/
def literal (t : List Char) : Option Nat :=
  match t with
  | [] => none
  | ['0', 'x', hi, lo] => (hexDigit hi).bind fun h => (hexDigit lo).map fun l => 16 * h + l
  | ch :: rest => decimalFrom 0 (ch :: rest)

/-- Literals separated by commas (R54, R55). -/
def literals : List (List Char) → Option (List Nat)
  | [t] => (literal t).map fun v => [v]
  | t :: [','] :: rest => (literal t).bind fun v => (literals rest).map fun vs => v :: vs
  | _ => none

/-- The text of one line: `none` is an error of syntax, `some none` a line with no operation. -/
def parseLine (text : List Char) : Option (Option AsmLine) :=
  match tokensFrom [] text with
  | [] => some none
  | ['N', 'O', 'P'] :: rest => if rest.isEmpty then some (some .nop) else none
  | ['A', 'C', 'K'] :: rest => if rest.isEmpty then some (some .ack) else none
  | ['S', 'Y', 'N', 'C'] :: rest => if rest.isEmpty then some (some .sync) else none
  | [['B', 'Y', 'T', 'E'], t] => (literal t).map fun v => some (.byte v)
  | ['F', 'R', 'A', 'M', 'E'] :: rest => (literals rest).map fun p => some (.frame p)
  | ['R', 'A', 'W'] :: rest => (literals rest).map fun bs => some (.raw bs)
  | _ => none

/-- The operation words of one line of text, `none` if it is an assembly error (R52). -/
def assembleLine (c : Config) (text : List Char) : Option (List OpWord) :=
  (parseLine text).bind fun
    | none => some []
    | some l => (expand c l).map fun is => is.map encode

/-- The operation words of a program's lines, `none` if one of them is an assembly error. -/
def assemble (c : Config) : List (List Char) → Option (List OpWord)
  | [] => some []
  | l :: ls => (assembleLine c l).bind fun ws => (assemble c ls).map fun rest => ws ++ rest

end Sys2Proof.Machine
end

