-- ==== Sys2Proof/Machine/Drain.lean ====
section
/-! DEFINITION. The poll loop of the source's option (b), "process bytes until a packet completes or input is
exhausted", as a sequence of the block's steps (spec 40 R71, D4). It is not an operation of the block. -/

namespace Sys2Proof.Machine

/-- One call under option (b) with these bytes available: one BYTE step a byte, until `ready` is 1 or none is
left. The answer holds the state reached and the bytes the Byte Source still keeps; its result is that state's
`len`. A byte that was not taken is kept (R69). -/
def drain : List Byte → State → Host.Outcome (State × List Byte) Fault Refusal
  | [], s => .next (s, [])
  | b :: bs, s =>
    match execByte b s with
    | .next t => if t.ready then .next (t, if s.takesByte then bs else b :: bs) else drain bs t
    | .fault r => .fault r
    | .refused r => .refused r

end Sys2Proof.Machine
end

