-- ==== Sys2Proof/Machine/FramingErrors.lean ====
section
/-! DEFINITION. The three kinds of framing error, for reference: nothing in the block encodes them and no
output shows them (spec 60 R87, R88). The meanings do not use this file; statements do. -/

namespace Sys2Proof.Machine

/-- The spec's names of the kinds (R87). -/
inductive FramingError where
  | badSync
  | badLength
  | badChecksum
  deriving DecidableEq, Repr

/-- The framing error a byte raises in a state, if any (the table of R87). A byte that is not SYNC_BYTE in
AwaitingSync raises none: it is the search for sync. -/
def State.framingError (s : State) (b : Byte) : Option FramingError :=
  match s.st with
  | .awaitingSync => none
  | .syncByte1Seen => if b ≠ s.cfg.syncByte then some .badSync else none
  | .lengthReceived =>
    if b.toNat < 2 ∨ s.cfg.maxPayloadSize + 1 < b.toNat then some .badLength else none
  | .accumulatingPayload => none
  | .checksumPending => if b ≠ s.chk then some .badChecksum else none
  | .payloadReady => none

end Sys2Proof.Machine
end

