-- ==== Sys2Proof/Machine/StateCode.lean ====
section
/-! DEFINITION. The 3-bit encoding of `st` in hardware (spec 10 R17, D14). It reaches no output. -/

namespace Sys2Proof.Machine

/-- The code of each state, in the source's listing order (R17). -/
def DecoderState.code : DecoderState → BitVec 3
  | .awaitingSync => 0#3
  | .syncByte1Seen => 1#3
  | .lengthReceived => 2#3
  | .accumulatingPayload => 3#3
  | .checksumPending => 4#3
  | .payloadReady => 5#3

/-- How hardware decodes a code; 6 and 7 exactly as AwaitingSync (R17). -/
def DecoderState.ofCode (k : BitVec 3) : DecoderState :=
  if k = 1#3 then .syncByte1Seen
  else if k = 2#3 then .lengthReceived
  else if k = 3#3 then .accumulatingPayload
  else if k = 4#3 then .checksumPending
  else if k = 5#3 then .payloadReady
  else .awaitingSync

end Sys2Proof.Machine
end

