-- ==== Sys2Proof/Machine/Observe.lean ====
section
/-! DEFINITION. Runs and their observation: the outputs of each step (spec 00 R10, D16). -/

namespace Sys2Proof.Machine

/-- `k` steps from `s`, stopping at the first fault or refusal. -/
def run : Nat → State → Host.Outcome State Fault Refusal
  | 0, s => .next s
  | k + 1, s =>
    match step s with
    | .next t => run k t
    | .fault r => .fault r
    | .refused r => .refused r

/-- The meanings of a list of operations one after another (R38). -/
def execAll : List Instr → State → Host.Outcome State Fault Refusal
  | [], s => .next s
  | i :: is, s =>
    match exec i s with
    | .next t => execAll is t
    | .fault r => .fault r
    | .refused r => .refused r

/-- The outputs of the first `k` steps from `s`, up to the first step that does not complete. -/
def observeRun : Nat → State → List Outputs
  | 0, _ => []
  | k + 1, s =>
    match s.pending with
    | [] => []
    | inp :: _ =>
      match step s with
      | .next t => outputs inp s t :: observeRun k t
      | .fault _ => []
      | .refused _ => []

end Sys2Proof.Machine
end

