-- ==== Sys2Proof/Safety.lean ====
section
/-! DEFINITION. What statements say of states: the invariants of the spec (10 R27), and when two states differ
in hidden values only (10 R28). -/

namespace Sys2Proof.Machine

/-- The sum modulo 256 of the first `n` cells. A cell with no value counts as zero here; `State.PayloadOk` says
that the cells the sum is used for hold bytes. -/
def cellSum (m : Memory) : Nat → Byte
  | 0 => 0x00#8
  | n + 1 => cellSum m n + (m.read n).getD 0x00#8

/-- The buffer is in its canonical form and lists no index that names no cell (R30). -/
abbrev State.MemoryOk (s : State) : Prop := s.buf.wf ∧ ∀ c ∈ s.buf, c.1 < s.cfg.maxPayloadSize

/-- R27 item 2: in a frame, 1 <= exp_len <= MAX_PAYLOAD_SIZE and fill <= exp_len. -/
abbrev State.LengthsOk (s : State) : Prop :=
  s.inFrame = true →
    1 ≤ s.expLen.toNat ∧ s.expLen.toNat ≤ s.cfg.maxPayloadSize ∧ s.fill.toNat ≤ s.expLen.toNat

/-- R27 item 3: fill < exp_len while accumulating, fill = exp_len once the payload is complete. -/
abbrev State.ProgressOk (s : State) : Prop :=
  (s.st = .accumulatingPayload → s.fill.toNat < s.expLen.toNat) ∧
    (s.st = .checksumPending ∨ s.st = .payloadReady → s.fill = s.expLen)

/-- R27 item 4: the cells below `fill` hold bytes. -/
abbrev State.PayloadOk (s : State) : Prop :=
  s.inFrame = true → ∀ k < s.fill.toNat, (s.readCell k).isSome = true

/-- R27 item 4: chk = (SEED + LEN + buf[0] + ... + buf[fill-1]) mod 256 with LEN = exp_len + 1. -/
abbrev State.ChecksumOk (s : State) : Prop :=
  s.inFrame = true → s.chk = seed s.cfg + (s.expLen + 1#8) + cellSum s.buf s.fill.toNat

/-- The invariants of the spec (R27) with the buffer's canonical form. In AwaitingSync, SyncByte1Seen and
LengthReceived the three registers may be stale and nothing links them (R27 item 6). -/
abbrev State.Inv (s : State) : Prop :=
  s.MemoryOk ∧ s.LengthsOk ∧ s.ProgressOk ∧ s.PayloadOk ∧ s.ChecksumOk

/-- The two states may differ only in hidden values (R28): `exp_len`, `fill` and `chk` outside a frame, and
buffer cells at or beyond `fill`. -/
abbrev State.AgreeVisibly (s t : State) : Prop :=
  s.cfg = t.cfg ∧ s.st = t.st ∧ s.pending = t.pending ∧
    (s.inFrame = true →
      s.expLen = t.expLen ∧ s.fill = t.fill ∧ s.chk = t.chk ∧
        ∀ k < s.fill.toNat, s.readCell k = t.readCell k)

/-- Two steps end alike: both in a next state, the states agreeing visibly, or both in the same stop. -/
def EndAlike : Host.Outcome State Fault Refusal → Host.Outcome State Fault Refusal → Prop
  | .next s, .next t => s.AgreeVisibly t
  | .fault q, .fault r => q = r
  | .refused q, .refused r => q = r
  | _, _ => False

/-- The input presents this operation, with reset not asserted. -/
def PortInput.presents (inp : PortInput) (i : Instr) : Prop := inp.rst = false ∧ decode inp.word = .instr i

/-- The bytes among the inputs, in stream order (R58). -/
def bytesPresented : List PortInput → List Byte
  | [] => []
  | inp :: rest =>
    match decode inp.word with
    | .instr (.byte b) => b :: bytesPresented rest
    | .instr .nop => bytesPresented rest
    | .instr .ack => bytesPresented rest
    | .reservedOp => bytesPresented rest

/-- The input is a poll: NOP or BYTE, with reset not asserted (R56, R57, R58). -/
def PortInput.isPoll (inp : PortInput) : Prop :=
  inp.presents .nop ∨ ∃ b, inp.presents (.byte b)

/-- The input presents BYTE with reset not asserted. -/
def PortInput.presentsByte (inp : PortInput) : Bool :=
  if inp.rst then false
  else match decode inp.word with
    | .instr (.byte _) => true
    | .instr .nop => false
    | .instr .ack => false
    | .reservedOp => false

end Sys2Proof.Machine
end

