-- ==== Sys2Proof/Certificates/Slice0/Obligations.lean ====
section
/-! DEFINITION. The statements for the provers. Each docstring names the rule of spec/ it formalises, and where it
rests on a decision or an inference the spec marks as its own, or on a choice of the model, it says so. -/

open Sys2Proof Sys2Proof.Machine

/-! ## The operation word -/

/-- Words written out from R46 to R49 decode to what they stand for, in the port's bits and in the opcode table's
numbering: NOP, NOP with an ignored `din`, BYTE 0xAA, BYTE 0x03, ACK, ACK with an ignored `din`, the reserved word. -/
def Obligations.SampleWordsDecode : Prop :=
  decode 0b00_00000000#10 = .instr .nop ∧
  decode 0b00_11111111#10 = .instr .nop ∧
  decode 0b01_10101010#10 = .instr (.byte 0xAA#8) ∧
  decode 0b01_00000011#10 = .instr (.byte 0x03#8) ∧
  decode 0b10_00000000#10 = .instr .ack ∧
  decode 0b10_11111111#10 = .instr .ack ∧
  decode 0b11_10101010#10 = .reservedOp ∧
  decodeTableWord 16 0x000 = some .nop ∧
  decodeTableWord 16 0x1AA = some (.byte 0xAA#8) ∧
  decodeTableWord 16 0x200 = some .ack ∧
  decodeTableWord 16 0x300 = none

/-- Every word decodes by `w[9:8]` alone: (w & 0x300) equals the match of exactly one row, and BYTE's operand is
`w[7:0]` (R45 to R51; the word itself is decision D2, D3, D19). -/
def Obligations.OperationSelectedByHighBitsAlone : Prop :=
  ∀ w : OpWord,
    (decode w = .instr .nop ↔ w &&& 0x300#10 = 0x000#10) ∧
    (∀ b, decode w = .instr (.byte b) ↔ w &&& 0x300#10 = 0x100#10 ∧ b.toNat = w.toNat % 256) ∧
    (decode w = .instr .ack ↔ w &&& 0x300#10 = 0x200#10) ∧
    (decode w = .reservedOp ↔ w &&& 0x300#10 = 0x300#10)

/-- For every operation, with every operand, the decoder gives it back from its word, read at the port or as the
opcode table numbers the bits; and every word that decodes to an operation is that operation's word but for the
ignored `din` of NOP and ACK (R45 to R50; D2, D19). -/
def Obligations.DecodeInvertsEncode : Prop :=
  (∀ i : Instr, decode (encode i) = .instr i ∧ decodeTableWord 16 (encode i).toNat = some i) ∧
  (∀ (w : OpWord) (b : Byte), decode w = .instr (.byte b) → w = encode (.byte b)) ∧
  (∀ w : OpWord, decode w = .instr .nop → ∃ d, w = opWord 0b00#2 d) ∧
  (∀ w : OpWord, decode w = .instr .ack → ∃ d, w = opWord 0b10#2 d)

/-- When the input presented decodes to an operation and reset is not asserted, the step is the meaning of that
operation at the state with the input taken off the list (R56; the list of inputs is the model's choice, log 3). -/
def Obligations.StepRunsDecodedOperation : Prop :=
  ∀ (s : State) (inp : PortInput) (rest : List PortInput) (i : Instr),
    s.pending = inp :: rest → inp.rst = false → decode inp.word = .instr i →
      step s = exec i (s.setPending rest)

/-- Presenting a word as the opcode table numbers it makes the very next step run the operation it decodes to, on
the state as it was (the model's way for an operation to reach the port, log 3, 15). -/
def Obligations.FetchedWordRunsNext : Prop :=
  ∀ (s : State) (nbits w : Nat) (i : Instr),
    decodeTableWord nbits w = some i → step (s.withFetchWord nbits w) = exec i s

/-- Operations presented as their words, one a step, have together the effect of their meanings one after another:
each sees the complete effect of the earlier ones, and what was to follow is still to follow (R38, R56; D2; the list
of pending inputs is the model's choice, log 3). -/
def Obligations.PresentedOperationsRunInOrder : Prop :=
  ∀ (is : List Instr) (s t : State) (rest : List PortInput),
    s.pending = rest → execAll is s = .next t →
      run is.length (s.setPending (is.map PortInput.ofInstr ++ rest)) = .next t ∧ t.pending = rest

/-- The reserved word is refused by name and takes no byte. That the model refuses it is decision D3 of the spec
(R49, R91; log 6). -/
def Obligations.ReservedWordIsRefused : Prop :=
  ∀ (s : State) (inp : PortInput) (rest : List PortInput),
    s.pending = inp :: rest → inp.rst = false → opField inp.word = 0b11#2 →
      step s = .refused .reservedOperation ∧ take inp (s.setPending rest) = false

/-- With nothing presented there is no step: the model's choice, log 4. -/
def Obligations.NothingPresentedNoStep : Prop :=
  ∀ s : State, s.pending = [] → step s = .refused .noOperationPresented

/-! ## NOP -/

/-- NOP, with any `din`, writes no register and no cell and takes no byte, and the poll result is `exp_len` in
PayloadReady and else 0xFF (R57). -/
def Obligations.NopWritesNothing : Prop :=
  (∀ s : State, exec .nop s = .next s ∧ s.takes .nop = false) ∧
  ∀ (s : State) (w : OpWord) (a : Byte) (rest : List PortInput),
    w &&& 0x300#10 = 0x000#10 → s.pending = ⟨false, w, a⟩ :: rest →
      step s = .next (s.setPending rest) ∧ take ⟨false, w, a⟩ (s.setPending rest) = false ∧
      (s.setPending rest).ready = s.ready ∧
      (s.setPending rest).len = if s.st = .payloadReady then s.expLen else 0xFF#8

/-- A frame that stops arriving leaves the decoder parked: any number of NOPs, in any state, changes nothing
(R105, R95; derived there). -/
def Obligations.ParkedWhileNoByteArrives : Prop :=
  ∀ (ops : List PortInput) (s : State) (rest : List PortInput),
    (∀ inp ∈ ops, inp.presents .nop) → s.pending = ops ++ rest →
      run ops.length s = .next (s.setPending rest)

/-! ## BYTE, state by state -/

/-- BYTE in AwaitingSync: SYNC_BYTE moves to SyncByte1Seen and nothing else is written (R59); any other byte is
consumed and nothing is written (R60, its first sentence). -/
def Obligations.ByteInAwaitingSync : Prop :=
  ∀ (s : State) (b : Byte), s.st = .awaitingSync →
    s.takes (.byte b) = true ∧
    (b = s.cfg.syncByte → exec (.byte b) s = .next { s with st := .syncByte1Seen }) ∧
    (b ≠ s.cfg.syncByte → exec (.byte b) s = .next s)

/-- Any number of bytes that are not SYNC_BYTE may precede a frame: all are taken and nothing is written
(R60, the sentence marked derived). -/
def Obligations.NoiseBeforeSyncIsDiscarded : Prop :=
  ∀ (bs : List Byte) (s : State) (rest : List PortInput),
    s.st = .awaitingSync → (∀ b ∈ bs, b ≠ s.cfg.syncByte) → s.pending = byteInputs bs ++ rest →
      run bs.length s = .next (s.setPending rest) ∧
      (observeRun bs.length s).map Outputs.take = bs.map fun _ => true

/-- BYTE in SyncByte1Seen with SYNC_BYTE moves to LengthReceived and writes nothing else (R61). -/
def Obligations.SecondSyncByteAwaitsLength : Prop :=
  ∀ s : State, s.st = .syncByte1Seen →
    exec (.byte s.cfg.syncByte) s = .next { s with st := .lengthReceived } ∧
    s.takes (.byte s.cfg.syncByte) = true

/-- BYTE in SyncByte1Seen with any other byte: BadSync, only `st` is written, and the byte would change nothing if
it were examined again (R62; that only `st` is written is decision D18, log 11). -/
def Obligations.BadSecondSyncResynchronises : Prop :=
  ∀ (s : State) (b : Byte), s.st = .syncByte1Seen → b ≠ s.cfg.syncByte →
    s.framingError b = some .badSync ∧ s.takes (.byte b) = true ∧
    exec (.byte b) s = .next { s with st := .awaitingSync } ∧
    exec (.byte b) { s with st := .awaitingSync } = .next { s with st := .awaitingSync }

/-- BYTE in LengthReceived with 2 <= b <= MAX_PAYLOAD_SIZE + 1 accepts the length: the four registers written, the
buffer not, and the new `exp_len` in 1..MAX_PAYLOAD_SIZE (R65). -/
def Obligations.AcceptedLengthStartsPayload : Prop :=
  ∀ (s : State) (b : Byte), s.st = .lengthReceived → 2 ≤ b.toNat → b.toNat ≤ s.cfg.maxPayloadSize + 1 →
    s.takes (.byte b) = true ∧
    exec (.byte b) s = .next { s with
      expLen := b - 1#8, fill := 0x00#8, chk := s.cfg.syncByte + s.cfg.syncByte + b, st := .accumulatingPayload } ∧
    (b - 1#8).toNat = b.toNat - 1 ∧ 1 ≤ (b - 1#8).toNat ∧ (b - 1#8).toNat ≤ s.cfg.maxPayloadSize

/-- BYTE in LengthReceived with b in {0, 1} or b > MAX_PAYLOAD_SIZE + 1: BadLength, only `st` is written; with
MAX_PAYLOAD_SIZE = 254 only 0 and 1 are rejected (R64 with C1, C2; that only `st` is written is D18, log 11, 13). -/
def Obligations.RejectedLengthResynchronises : Prop :=
  ∀ (s : State) (b : Byte), s.st = .lengthReceived →
    (b.toNat < 2 ∨ s.cfg.maxPayloadSize + 1 < b.toNat →
      s.framingError b = some .badLength ∧ s.takes (.byte b) = true ∧
      exec (.byte b) s = .next { s with st := .awaitingSync }) ∧
    (s.cfg.maxPayloadSize = 254 → s.framingError b = some .badLength → b.toNat < 2)

/-- BYTE in AccumulatingPayload, at a cell that exists: the byte is stored at `fill`, counted and added, and the
incremented count decides the next state (R66). Every byte value is accepted. -/
def Obligations.PayloadByteIsStoredAndSummed : Prop :=
  ∀ (s : State) (b : Byte), s.st = .accumulatingPayload → s.fill.toNat < s.cfg.maxPayloadSize →
    s.takes (.byte b) = true ∧
    exec (.byte b) s = .next { s with
      buf := s.buf.write s.fill.toNat b, fill := s.fill + 1#8, chk := s.chk + b,
      st := if s.fill + 1#8 = s.expLen then .checksumPending else .accumulatingPayload } ∧
    (s.buf.write s.fill.toNat b).read s.fill.toNat = some b ∧
    (s.fill + 1#8).toNat = s.fill.toNat + 1

/-- A payload byte for which `fill` names no cell faults. The spec says a run never gets there (R36); the fault is
the model's choice, log 7. -/
def Obligations.StoreOutsideTheBufferFaults : Prop :=
  ∀ (s : State) (b : Byte), s.st = .accumulatingPayload → s.cfg.maxPayloadSize ≤ s.fill.toNat →
    exec (.byte b) s = .fault .noSuchCell

/-- BYTE in ChecksumPending with b = chk moves to PayloadReady and writes nothing else; `ready` is 1 and `len` is
`exp_len` from then on (R67). -/
def Obligations.MatchingChecksumMakesReady : Prop :=
  ∀ s : State, s.st = .checksumPending →
    s.takes (.byte s.chk) = true ∧
    exec (.byte s.chk) s = .next { s with st := .payloadReady } ∧
    ({ s with st := .payloadReady } : State).ready = true ∧
    ({ s with st := .payloadReady } : State).len = s.expLen

/-- BYTE in ChecksumPending with any other byte: BadChecksum, only `st` is written, the payload bytes stay in the
buffer and no read of them is defined (R68; that only `st` is written is D18, log 11). -/
def Obligations.WrongChecksumResynchronises : Prop :=
  ∀ (s : State) (b : Byte), s.st = .checksumPending → b ≠ s.chk →
    s.framingError b = some .badChecksum ∧ s.takes (.byte b) = true ∧
    exec (.byte b) s = .next { s with st := .awaitingSync } ∧
    ∀ a, ({ s with st := .awaitingSync } : State).rdData a = none

/-- BYTE in PayloadReady: the byte is not taken, nothing is written, and `len` stays `exp_len` (R69; C4, log 14). -/
def Obligations.ByteIsHeldWhileReady : Prop :=
  ∀ (s : State) (b : Byte), s.st = .payloadReady →
    exec (.byte b) s = .next s ∧ s.takes (.byte b) = false ∧ s.len = s.expLen

/-! ## ACK -/

/-- ACK, with any `din`, in every state: `exp_len` becomes 0xFF, `st` AwaitingSync, and `fill`, `chk` and the buffer
are not written; no byte is taken, and afterwards `ready` is 0, `len` is 0xFF and no read is defined (R77; in states
other than PayloadReady R78 with C6 and decision D10, log 12; that no read has a value afterwards, R79 and R81 with
decision D13, log 8). -/
def Obligations.AckReturnsToAwaitingSync : Prop :=
  (∀ s : State, exec .ack s = .next { s with expLen := 0xFF#8, st := .awaitingSync } ∧ s.takes .ack = false) ∧
  ∀ (s : State) (w : OpWord) (a : Byte) (rest : List PortInput),
    w &&& 0x300#10 = 0x200#10 → s.pending = ⟨false, w, a⟩ :: rest →
      ∃ t, step s = .next t ∧ t = { s with expLen := 0xFF#8, st := .awaitingSync, pending := rest } ∧
        take ⟨false, w, a⟩ (s.setPending rest) = false ∧ t.ready = false ∧ t.len = 0xFF#8 ∧
        ∀ d, t.rdData d = none

/-- ACK in AwaitingSync changes no observable state: every later run gives the same outputs as if the ACK had not
been (R78, its clause on AwaitingSync, decision D10; log 12). -/
def Obligations.AckInAwaitingSyncIsUnobservable : Prop :=
  ∀ (s t : State) (k : Nat), s.Inv → s.st = .awaitingSync → exec .ack s = .next t →
    observeRun k t = observeRun k s

/-- From PayloadReady only ACK, or reset, leaves the state (R85; derived there). -/
def Obligations.OnlyAckOrResetReleasesThePayload : Prop :=
  ∀ (s t : State), s.st = .payloadReady → step s = .next t →
    (t.st = .payloadReady ∧ t = s.setPending t.pending) ∨
    ∃ inp rest, s.pending = inp :: rest ∧ (inp.rst = true ∨ decode inp.word = .instr .ack)

/-! ## Frames: what each operation leaves unchanged -/

/-- The buffer: an operation that answers a next state changes the one cell `storeAddress` computes (BYTE in
AccumulatingPayload, `buf[fill]`), which then holds the byte, and no other; an operation for which it computes none
leaves the buffer as it was (R31). -/
def Obligations.OnlyTheCellAtFillIsWritten : Prop :=
  ∀ (s t : State) (i : Instr), exec i s = .next t →
    (s.storeAddress i = if s.st = .accumulatingPayload ∧ ∃ b, i = .byte b then some s.fill.toNat else none) ∧
    (∀ k, s.storeAddress i ≠ some k → t.readCell k = s.readCell k) ∧
    (∀ k b, i = .byte b → s.storeAddress i = some k → t.readCell k = some b) ∧
    (s.storeAddress i = none → t.buf = s.buf)

/-- The registers: an operation that answers a next state leaves the configuration and the pending inputs alone;
`exp_len` changes only by an accepted LEN or ACK, `fill` and `chk` only by an accepted LEN or a payload byte, `st` only
by BYTE or ACK (the "written by" column of R15, R18 to R20). -/
def Obligations.RegistersChangeOnlyByTheirWriters : Prop :=
  ∀ (s t : State) (i : Instr), exec i s = .next t →
    t.cfg = s.cfg ∧ t.pending = s.pending ∧
    (t.expLen ≠ s.expLen → i = .ack ∨ (s.st = .lengthReceived ∧ t.st = .accumulatingPayload ∧ ∃ b, i = .byte b)) ∧
    (t.fill ≠ s.fill ∨ t.chk ≠ s.chk →
      (s.st = .lengthReceived ∧ t.st = .accumulatingPayload ∨ s.st = .accumulatingPayload) ∧ ∃ b, i = .byte b) ∧
    (t.st ≠ s.st → i ≠ .nop ∧ (s.st = .payloadReady → i = .ack))

/-- BYTE's frame, state by state: outside LengthReceived `exp_len` is unchanged; outside LengthReceived and
AccumulatingPayload so are `fill` and `chk`; outside AccumulatingPayload so is every cell (R59 to R69; that a framing
error writes only `st` is D18, log 11). -/
def Obligations.ByteFrameStateByState : Prop :=
  ∀ (s t : State) (b : Byte), exec (.byte b) s = .next t →
    (s.st ≠ .lengthReceived → t.expLen = s.expLen) ∧
    (s.st ≠ .lengthReceived → s.st ≠ .accumulatingPayload → t.fill = s.fill ∧ t.chk = s.chk) ∧
    (s.st ≠ .accumulatingPayload → t.buf = s.buf) ∧
    (∀ k, k ≠ s.storeIndex → t.readCell k = s.readCell k)

/-- No step writes the configuration, whatever is presented (R9). -/
def Obligations.ConfigurationNeverChanges : Prop :=
  ∀ (k : Nat) (s t : State), run k s = .next t → t.cfg = s.cfg

/-! ## Framing errors -/

/-- Every framing error, whichever its kind, writes `st <- AwaitingSync` and nothing else and consumes its byte;
afterwards `ready` is 0 and `len` 0xFF, and no read is defined (R63, R88, R89; that nothing else is written is D18,
log 11). -/
def Obligations.EveryFramingErrorOnlyResynchronises : Prop :=
  ∀ (s : State) (b : Byte) (e : FramingError), s.framingError b = some e →
    s.takes (.byte b) = true ∧
    exec (.byte b) s = .next { s with st := .awaitingSync } ∧
    ({ s with st := .awaitingSync } : State).ready = false ∧
    ({ s with st := .awaitingSync } : State).len = 0xFF#8 ∧
    ∀ a, ({ s with st := .awaitingSync } : State).rdData a = none

/-- BYTE goes back to AwaitingSync from another state exactly by a framing error (R87, with R59 to R69). -/
def Obligations.ByteResynchronisesOnlyByFramingError : Prop :=
  ∀ (s t : State) (b : Byte), exec (.byte b) s = .next t →
    ((s.st ≠ .awaitingSync ∧ t.st = .awaitingSync) ↔ (s.framingError b).isSome = true)

/-! ## Outputs -/

/-- `take` is 1 exactly when the operation presented is BYTE, `st` is not PayloadReady and reset is not asserted; a
BYTE that is not taken changes nothing, so presenting it again is idempotent (R25, R35; D11, D12). -/
def Obligations.TakeExactlyWhenByteIsConsumed : Prop :=
  ∀ (s : State) (inp : PortInput),
    (take inp s = true ↔
      inp.rst = false ∧ (∃ b, decode inp.word = .instr (.byte b)) ∧ s.st ≠ .payloadReady) ∧
    ∀ b, inp.presents (.byte b) → take inp s = false → runInput inp s = .next s

/-- `ready` is 1 exactly in PayloadReady; a step sets it only by BYTE in ChecksumPending with a byte equal to `chk`,
and clears it only by ACK or reset (R23). -/
def Obligations.ReadySetAndClearedOnlyAsStated : Prop :=
  (∀ s : State, s.ready = true ↔ s.st = .payloadReady) ∧
  ∀ (s t : State), step s = .next t →
    ∃ inp rest, s.pending = inp :: rest ∧
      (s.ready = false → t.ready = true →
        inp.rst = false ∧ s.st = .checksumPending ∧ decode inp.word = .instr (.byte s.chk)) ∧
      (s.ready = true → t.ready = false → inp.rst = true ∨ decode inp.word = .instr .ack)

/-- The poll result of a step is `len` of the state after it: `exp_len` in PayloadReady, else 0xFF; under the
invariants 0xFF is never a length, so the two forms of the result tell the same (R24, R70, R7; D7, D12). -/
def Obligations.PollResultTellsReadyLength : Prop :=
  ∀ (s t : State) (inp : PortInput),
    (outputs inp s t).ready = t.ready ∧
    (outputs inp s t).len = (if t.st = .payloadReady then t.expLen else 0xFF#8) ∧
    t.pollResult = (if t.st = .payloadReady then some t.expLen else none) ∧
    (t.Inv → ((outputs inp s t).len = 0xFF#8 ↔ t.pollResult = none))

/-- `rd_data` is defined exactly in PayloadReady at an index below `exp_len`, and is then the cell as held at the
start of the step; under the invariants every such cell holds a byte (R80, R81; D13, log 8). That `rd_data` goes by the
state before the step in every step, so that in the ACK step it is still the payload byte where R102 says
"unspecified", is the model's choice, log 20. -/
def Obligations.ReadPortDefinedExactlyInWindow : Prop :=
  ∀ (s : State) (a : Byte), s.Inv →
    ((s.rdData a).isSome = true ↔ s.st = .payloadReady ∧ a.toNat < s.expLen.toNat) ∧
    (s.st = .payloadReady → a.toNat < s.expLen.toNat → s.rdData a = s.readCell a.toNat) ∧
    ∀ (inp : PortInput) (t : State), (outputs inp s t).rdData = s.rdData inp.rdAddr

/-- The read window: from PayloadReady, any polls whatever leave the whole block as it is, and no byte is taken, so
every read in the window sees the completed payload (R39, R35, R85, R102; derived there). -/
def Obligations.PayloadIsStableUntilAcknowledged : Prop :=
  ∀ (ops : List PortInput) (s : State) (rest : List PortInput),
    s.st = .payloadReady → (∀ inp ∈ ops, inp.isPoll) → s.pending = ops ++ rest →
      run ops.length s = .next (s.setPending rest) ∧
      observeRun ops.length s = ops.map fun inp => ⟨false, true, s.expLen, s.rdData inp.rdAddr⟩

/-! ## Reset -/

/-- After reset, in every configuration: `st` = AwaitingSync, `exp_len` = 0xFF, `fill` = 0, `chk` = 0, every cell no
value, `ready` = 0, `len` = 0xFF (R29; all but `st` by decision D8, log 5). `State.reset` is such a state. -/
def Obligations.ResetStateHoldsStatedValues : Prop :=
  (∀ c : Config,
    (State.resetOf c).cfg = c ∧ (State.resetOf c).st = .awaitingSync ∧ (State.resetOf c).expLen = 0xFF#8 ∧
    (State.resetOf c).fill = 0x00#8 ∧ (State.resetOf c).chk = 0x00#8 ∧
    (∀ i, (State.resetOf c).readCell i = none) ∧
    (State.resetOf c).ready = false ∧ (State.resetOf c).len = 0xFF#8) ∧
  State.reset = State.resetOf State.reset.cfg

/-- A step with `rst` = 1, whatever the operation word (the reserved one too), takes no byte and sets every register
and cell to its reset value (R99, R93; decisions D8, D9, log 5). -/
def Obligations.ResetOverridesTheOperation : Prop :=
  ∀ (s : State) (inp : PortInput) (rest : List PortInput), s.pending = inp :: rest → inp.rst = true →
    step s = .next { State.resetOf s.cfg with pending := rest } ∧ take inp (s.setPending rest) = false

/-- The reset values of `exp_len`, `fill` and `chk` are not observable: a state in AwaitingSync with any other values
there gives the same outputs in every run as the reset state (R29, its last sentence; derived there). -/
def Obligations.ResetRegisterValuesAreUnobservable : Prop :=
  ∀ (s : State) (k : Nat), s.Inv → s.st = .awaitingSync →
    observeRun k s = observeRun k { State.resetOf s.cfg with pending := s.pending }

/-! ## Invariants -/

/-- The reset state of every configuration meets the invariants (R27). -/
def Obligations.ResetMeetsInvariants : Prop :=
  (∀ c : Config, (State.resetOf c).Inv) ∧ State.reset.Inv

/-- Every step that answers a next state keeps the invariants of R27: lengths in range, `fill` against `exp_len`,
the cells below `fill` written, `chk` the sum of seed, LEN and those cells, and the buffer in canonical form and
inside 0..MAX_PAYLOAD_SIZE-1. -/
def Obligations.EveryStepKeepsInvariants : Prop :=
  ∀ s t : State, s.Inv → step s = .next t → t.Inv

/-- Under the invariants every operation is available in every state and completes, and the index it stores to is
below MAX_PAYLOAD_SIZE (R94, R86, R36). -/
def Obligations.EveryOperationCompletes : Prop :=
  ∀ (s : State) (i : Instr), s.Inv →
    (∃ t, exec i s = .next t) ∧ ∀ k, s.storeAddress i = some k → k < s.cfg.maxPayloadSize

/-- With the invariants, one step after another, the block never stops while the host presents operations or resets
and never the reserved word (R10, D16; R86). -/
def Obligations.BlockNeverStops : Prop :=
  ∀ (ops : List PortInput) (s : State) (rest : List PortInput), s.Inv → s.pending = ops ++ rest →
    (∀ inp ∈ ops, inp.rst = true ∨ decode inp.word ≠ .reservedOp) →
      ∃ t, run ops.length s = .next t ∧ t.Inv ∧ t.pending = rest

/-! ## Whole frames -/

/-- Accumulating a payload: from AccumulatingPayload with `fill` = 0, the first n payload bytes (n at most `exp_len`)
go to `buf[0 .. n-1]` in arrival order, `fill` is n, `chk` has grown by their sum, and ChecksumPending is reached
exactly when n = `exp_len` (R66, R33, R72; derived there). -/
def Obligations.PayloadAccumulatesInArrivalOrder : Prop :=
  ∀ (bs : List Byte) (s : State) (rest : List PortInput),
    s.st = .accumulatingPayload → s.fill = 0x00#8 → 1 ≤ s.expLen.toNat → s.expLen.toNat ≤ s.cfg.maxPayloadSize →
    bs.length ≤ s.expLen.toNat → s.pending = byteInputs bs ++ rest →
      ∃ t, run bs.length s = .next t ∧ t.pending = rest ∧ t.cfg = s.cfg ∧ t.expLen = s.expLen ∧
        t.fill.toNat = bs.length ∧ t.chk = s.chk + byteSum bs ∧
        t.st = (if bs.length = s.expLen.toNat then .checksumPending else .accumulatingPayload) ∧
        (∀ (k : Nat) (h : k < bs.length), t.readCell k = some bs[k]) ∧
        ∀ k, bs.length ≤ k → t.readCell k = s.readCell k

/-- A valid frame, presented from AwaitingSync as BYTE operations with any NOPs interleaved, has every byte taken
and ends in PayloadReady with `len` = LEN - 1 and the read port giving the payload (R74; derived there from R57, R59,
R61, R65, R66, R67). -/
def Obligations.ValidFrameIsDecoded : Prop :=
  ∀ (ops : List PortInput) (p : List Byte) (s : State) (rest : List PortInput),
    s.st = .awaitingSync → framable s.cfg p → (∀ inp ∈ ops, inp.isPoll) →
    bytesPresented ops = frameBytes s.cfg p → s.pending = ops ++ rest →
      (observeRun ops.length s).map Outputs.take = ops.map PortInput.presentsByte ∧
      ∃ t, run ops.length s = .next t ∧ t.pending = rest ∧ t.st = .payloadReady ∧ t.len.toNat = p.length ∧
        (∀ (k : Nat) (h : k < p.length), t.readCell k = some p[k]) ∧
        ∀ a : Byte, t.rdData a = p[a.toNat]?

/-- A valid frame with exactly one payload byte changed never reaches PayloadReady at its checksum byte: there it is
rejected and the decoder is back in AwaitingSync (R75, its first sentence; derived there). -/
def Obligations.ChangedPayloadByteIsRejected : Prop :=
  ∀ (p : List Byte) (k : Nat) (v : Byte) (s : State) (rest : List PortInput) (h : k < p.length),
    s.st = .awaitingSync → framable s.cfg p → v ≠ p[k] →
    s.pending =
      byteInputs (s.cfg.syncByte :: s.cfg.syncByte :: lenByte p :: (p.set k v ++ [frameChecksum s.cfg p])) ++ rest →
      ∃ t, run (p.length + 4) s = .next t ∧ t.st = .awaitingSync ∧ t.ready = false ∧ t.len = 0xFF#8

/-- Acknowledge-then-resend: a frame, ACK and the same frame again give the same `len` and the same read port both
times, whatever state of AwaitingSync the first began in (R76; derived there). -/
def Obligations.AcknowledgeThenResendIsIdempotent : Prop :=
  ∀ (p : List Byte) (s : State) (rest : List PortInput),
    s.st = .awaitingSync → framable s.cfg p →
    s.pending =
      byteInputs (frameBytes s.cfg p) ++ PortInput.ofInstr .ack :: (byteInputs (frameBytes s.cfg p) ++ rest) →
      ∃ t u, run (p.length + 4) s = .next t ∧ run (2 * (p.length + 4) + 1) s = .next u ∧
        t.st = .payloadReady ∧ u.st = .payloadReady ∧ u.len = t.len ∧ (∀ a, u.rdData a = t.rdData a) ∧
        u.pending = rest

/-- A byte equal to SYNC_BYTE has no special meaning outside AwaitingSync and SyncByte1Seen: there BYTE has the same
effect whatever SYNC_BYTE is, but for the seed of `chk` (R73; derived there). -/
def Obligations.SyncByteIsOrdinaryInsideAFrame : Prop :=
  ∀ (s t : State) (b y : Byte), s.st ≠ .awaitingSync → s.st ≠ .syncByte1Seen → exec (.byte b) s = .next t →
    ∃ u, exec (.byte b) { s with cfg := { s.cfg with syncByte := y } } = .next u ∧
      u.st = t.st ∧ u.expLen = t.expLen ∧ u.fill = t.fill ∧ u.buf = t.buf ∧
      (s.st ≠ .lengthReceived → u.chk = t.chk)

/-- FRAME expands to the n + 4 = LEN + 3 operations of one well-formed frame, and with n outside 1..MAX_PAYLOAD_SIZE
it is an assembly error; BYTE with a literal above 255 is one too (R54, R52, R42, R43; the assembler is D17). -/
def Obligations.FrameLineExpandsToOneFrame : Prop :=
  ∀ (c : Config) (p : List Byte),
    (framable c p →
      ∃ is, expand c (.frame (p.map BitVec.toNat)) = some is ∧ is.length = p.length + 4 ∧
        is.length = (lenByte p).toNat + 3 ∧
        is = (c.syncByte :: c.syncByte :: lenByte p :: (p ++ [frameChecksum c p])).map Instr.byte ∧
        frameChecksum c p = c.syncByte + c.syncByte + lenByte p + byteSum p) ∧
    (¬framable c p → expand c (.frame (p.map BitVec.toNat)) = none) ∧
    ∀ v, 256 ≤ v → expand c (.byte v) = none

/-- One call under option (b), "process bytes until a packet completes or input is exhausted", is a sequence of BYTE
steps: some number n of them, at most one for each byte available, reach the state it reaches; before the last of them
`ready` is never 1 after a step; and either `ready` is 1 at the end or every byte was consumed (R71; derived there,
D4). -/
def Obligations.DrainIsASequenceOfByteSteps : Prop :=
  ∀ (bs kept : List Byte) (s t : State), drain bs s = .next (t, kept) →
    ∃ n, n ≤ bs.length ∧ execAll ((bs.take n).map Instr.byte) s = .next t ∧
      (∀ m u, 1 ≤ m → m < n → execAll ((bs.take m).map Instr.byte) s = .next u → u.ready = false) ∧
      (t.ready = true ∨ (n = bs.length ∧ kept = [])) ∧
      kept = (if s.ready = true ∧ bs ≠ [] then bs else bs.drop n)

/-! ## Hidden state -/

/-- One step cannot tell apart two states that differ in hidden values only: it gives the same outputs and ends
alike, and the next states again differ in hidden values only (R28, R63; derived there). -/
def Obligations.HiddenValuesStayHiddenInOneStep : Prop :=
  ∀ s t : State, s.Inv → t.Inv → s.AgreeVisibly t →
    EndAlike (step s) (step t) ∧ observeRun 1 s = observeRun 1 t

/-- No run can tell apart two states that differ in hidden values only: stale `exp_len`, `fill`, `chk` and cells
beyond `fill` reach no output (R28; derived there). -/
def Obligations.HiddenValuesNeverReachAnOutput : Prop :=
  ∀ (k : Nat) (s t : State), s.Inv → t.Inv → s.AgreeVisibly t → observeRun k s = observeRun k t

/-! ## The code of the Decoder State -/

/-- The six states have the codes 0 to 5 in listing order, decoding a code inverts it, and the codes 6 and 7, no
state's, decode as AwaitingSync (R17; decision D14). -/
def Obligations.StateCodesRoundTrip : Prop :=
  (∀ x : DecoderState, DecoderState.ofCode x.code = x ∧ x.code ≠ 6#3 ∧ x.code ≠ 7#3) ∧
  [DecoderState.awaitingSync, .syncByte1Seen, .lengthReceived, .accumulatingPayload, .checksumPending,
    .payloadReady].map DecoderState.code = [0#3, 1#3, 2#3, 3#3, 4#3, 5#3] ∧
  DecoderState.ofCode 6#3 = .awaitingSync ∧ DecoderState.ofCode 7#3 = .awaitingSync
end

