-- ==== Sys2Proof/Laws/Decode.lean ====
section
/-! SUPPORT. The fields of a word built from its fields, and what the decoder makes of it. -/

namespace Sys2Proof

/-- The number a word of two fields is. -/
theorem opWord_toNat (op : BitVec 2) (din : Byte) : (opWord op din).toNat = 256 * op.toNat + din.toNat := by
  show (op ++ din).toNat = _
  rw [BitVec.toNat_append, ← Nat.shiftLeft_add_eq_or_of_lt din.isLt, Nat.shiftLeft_eq]
  omega

@[simp] theorem opField_opWord (op : BitVec 2) (din : Byte) : opField (opWord op din) = op := by
  apply BitVec.eq_of_toNat_eq
  have h1 := op.isLt
  have h2 := din.isLt
  simp only [opField, BitVec.extractLsb'_toNat, opWord_toNat, Nat.shiftRight_eq_div_pow]
  omega

@[simp] theorem dinField_opWord (op : BitVec 2) (din : Byte) : dinField (opWord op din) = din := by
  apply BitVec.eq_of_toNat_eq
  have h2 := din.isLt
  simp only [dinField, BitVec.extractLsb'_toNat, opWord_toNat, Nat.shiftRight_zero]
  omega

/-- Every word is the word of its two fields. -/
theorem opWord_fields (w : OpWord) : opWord (opField w) (dinField w) = w := by
  apply BitVec.eq_of_toNat_eq
  have h1 := w.isLt
  simp only [opWord_toNat, opField, dinField, BitVec.extractLsb'_toNat, Nat.shiftRight_eq_div_pow]
  omega

end Sys2Proof
end

