-- ==== Sys2Proof/Laws/Memory.lean ====
section
/-! SUPPORT. The laws of the cell list: a read after a write, the canonical form, and that equal contents are
equal lists. -/

namespace Sys2Proof.Machine

@[simp] theorem Memory.read_nil (i : Nat) : Memory.read [] i = none := rfl

/-- A read of the cell just written gives the byte written. -/
@[simp] theorem Memory.read_write_same (m : Memory) (i : Nat) (b : Byte) : (m.write i b).read i = some b := by
  induction m with
  | nil => simp [Memory.write, Memory.read]
  | cons c m ih =>
    obtain ⟨j, v⟩ := c
    simp only [Memory.write]
    split
    · simp [Memory.read]
    · split
      · simp [Memory.read]
      · rename_i h
        simp [Memory.read, h, ih]

/-- A write leaves every other cell alone. -/
theorem Memory.read_write_other (m : Memory) {i k : Nat} (b : Byte) (h : k ≠ i) :
    (m.write i b).read k = m.read k := by
  induction m with
  | nil => simp [Memory.write, Memory.read, h]
  | cons c m ih =>
    obtain ⟨j, v⟩ := c
    simp only [Memory.write]
    split
    · simp [Memory.read, h]
    · split
      · rename_i hij
        simp [Memory.read, h, ← hij]
      · simp [Memory.read, ih]

/-- The indices a written memory lists: the one written and those listed before. -/
theorem Memory.mem_write {m : Memory} {i : Nat} {b : Byte} {c : Host.Cell} (h : c ∈ m.write i b) :
    c.1 = i ∨ c ∈ m := by
  induction m with
  | nil => simp_all [Memory.write]
  | cons d m ih =>
    obtain ⟨j, v⟩ := d
    simp only [Memory.write] at h
    split at h
    · rcases List.mem_cons.1 h with rfl | h
      · exact .inl rfl
      · exact .inr h
    · split at h
      · rcases List.mem_cons.1 h with rfl | h
        · exact .inl rfl
        · exact .inr (List.mem_cons_of_mem _ h)
      · rcases List.mem_cons.1 h with rfl | h
        · exact .inr List.mem_cons_self
        · exact (ih h).imp_right (List.mem_cons_of_mem _)

/-- A write keeps the canonical form. -/
theorem Memory.write_wf {m : Memory} (i : Nat) (b : Byte) (h : m.wf) : (m.write i b).wf := by
  induction m with
  | nil => simp [Memory.write, Memory.wf]
  | cons d m ih =>
    obtain ⟨j, v⟩ := d
    obtain ⟨hj, hm⟩ := List.pairwise_cons.1 h
    simp only [Memory.write]
    split
    · rename_i hij
      refine List.pairwise_cons.2 ⟨fun c hc => ?_, h⟩
      rcases List.mem_cons.1 hc with rfl | hc
      · exact hij
      · exact Nat.lt_trans hij (hj c hc)
    · split
      · rename_i _ hij
        exact List.pairwise_cons.2 ⟨fun c hc => hij ▸ hj c hc, hm⟩
      · refine List.pairwise_cons.2 ⟨fun c hc => ?_, ih hm⟩
        rcases Memory.mem_write hc with hci | hc
        · show j < c.1
          omega
        · exact hj c hc

/-- A write to an index below `n` keeps every listed index below `n`. -/
theorem Memory.write_lt {m : Memory} {i n : Nat} (b : Byte) (hi : i < n) (h : ∀ c ∈ m, c.1 < n) :
    ∀ c ∈ m.write i b, c.1 < n := by
  intro c hc
  rcases Memory.mem_write hc with hci | hc
  · exact hci ▸ hi
  · exact h c hc

/-- A cell below every listed index holds no value. -/
theorem Memory.read_eq_none {m : Memory} {i : Nat} (h : ∀ c ∈ m, i < c.1) : m.read i = none := by
  induction m with
  | nil => rfl
  | cons d m ih =>
    obtain ⟨j, v⟩ := d
    have hj : i < j := h (j, v) List.mem_cons_self
    simp [Memory.read, Nat.ne_of_lt hj, ih fun c hc => h c (List.mem_cons_of_mem _ hc)]

/-- Equal contents in canonical form are equal lists. -/
theorem Memory.eq_of_read_eq {m n : Memory} (hm : m.wf) (hn : n.wf) (h : ∀ i, m.read i = n.read i) : m = n := by
  induction m generalizing n with
  | nil =>
    cases n with
    | nil => rfl
    | cons d n =>
      obtain ⟨j, v⟩ := d
      have := h j
      simp [Memory.read] at this
  | cons c m ih =>
    obtain ⟨j, v⟩ := c
    cases n with
    | nil =>
      have := h j
      simp [Memory.read] at this
    | cons d n =>
      obtain ⟨k, w⟩ := d
      obtain ⟨hj, hm'⟩ := List.pairwise_cons.1 hm
      obtain ⟨hk, hn'⟩ := List.pairwise_cons.1 hn
      have hjk : j = k := by
        rcases Nat.lt_trichotomy j k with hlt | heq | hgt
        · have hr := h j
          rw [Memory.read_eq_none (m := (k, w) :: n)] at hr
          · simp [Memory.read] at hr
          · intro c hc
            rcases List.mem_cons.1 hc with rfl | hc
            · exact hlt
            · exact Nat.lt_trans hlt (hk c hc)
        · exact heq
        · have hr := h k
          rw [Memory.read_eq_none (m := (j, v) :: m)] at hr
          · simp [Memory.read] at hr
          · intro c hc
            rcases List.mem_cons.1 hc with rfl | hc
            · exact hgt
            · exact Nat.lt_trans hgt (hj c hc)
      subst hjk
      have hvw : v = w := by simpa [Memory.read] using h j
      subst hvw
      refine congrArg _ (ih hm' hn' fun i => ?_)
      by_cases hi : i = j
      · subst hi
        rw [Memory.read_eq_none hj, Memory.read_eq_none hk]
      · simpa [Memory.read, hi] using h i

end Sys2Proof.Machine
end

