-- ==== Sys2Proof/Laws/State.lean ====
section
/-! SUPPORT. One lemma per field per update, so that no proof unfolds a record update, and the fields of the
reset state. -/

namespace Sys2Proof.Machine

variable (s : State)

@[simp] theorem State.setSt_cfg (x : DecoderState) : (s.setSt x).cfg = s.cfg := rfl
@[simp] theorem State.setSt_st (x : DecoderState) : (s.setSt x).st = x := rfl
@[simp] theorem State.setSt_expLen (x : DecoderState) : (s.setSt x).expLen = s.expLen := rfl
@[simp] theorem State.setSt_fill (x : DecoderState) : (s.setSt x).fill = s.fill := rfl
@[simp] theorem State.setSt_chk (x : DecoderState) : (s.setSt x).chk = s.chk := rfl
@[simp] theorem State.setSt_buf (x : DecoderState) : (s.setSt x).buf = s.buf := rfl
@[simp] theorem State.setSt_pending (x : DecoderState) : (s.setSt x).pending = s.pending := rfl

@[simp] theorem State.setExpLen_cfg (v : Byte) : (s.setExpLen v).cfg = s.cfg := rfl
@[simp] theorem State.setExpLen_st (v : Byte) : (s.setExpLen v).st = s.st := rfl
@[simp] theorem State.setExpLen_expLen (v : Byte) : (s.setExpLen v).expLen = v := rfl
@[simp] theorem State.setExpLen_fill (v : Byte) : (s.setExpLen v).fill = s.fill := rfl
@[simp] theorem State.setExpLen_chk (v : Byte) : (s.setExpLen v).chk = s.chk := rfl
@[simp] theorem State.setExpLen_buf (v : Byte) : (s.setExpLen v).buf = s.buf := rfl
@[simp] theorem State.setExpLen_pending (v : Byte) : (s.setExpLen v).pending = s.pending := rfl

@[simp] theorem State.setFill_cfg (v : Byte) : (s.setFill v).cfg = s.cfg := rfl
@[simp] theorem State.setFill_st (v : Byte) : (s.setFill v).st = s.st := rfl
@[simp] theorem State.setFill_expLen (v : Byte) : (s.setFill v).expLen = s.expLen := rfl
@[simp] theorem State.setFill_fill (v : Byte) : (s.setFill v).fill = v := rfl
@[simp] theorem State.setFill_chk (v : Byte) : (s.setFill v).chk = s.chk := rfl
@[simp] theorem State.setFill_buf (v : Byte) : (s.setFill v).buf = s.buf := rfl
@[simp] theorem State.setFill_pending (v : Byte) : (s.setFill v).pending = s.pending := rfl

@[simp] theorem State.setChk_cfg (v : Byte) : (s.setChk v).cfg = s.cfg := rfl
@[simp] theorem State.setChk_st (v : Byte) : (s.setChk v).st = s.st := rfl
@[simp] theorem State.setChk_expLen (v : Byte) : (s.setChk v).expLen = s.expLen := rfl
@[simp] theorem State.setChk_fill (v : Byte) : (s.setChk v).fill = s.fill := rfl
@[simp] theorem State.setChk_chk (v : Byte) : (s.setChk v).chk = v := rfl
@[simp] theorem State.setChk_buf (v : Byte) : (s.setChk v).buf = s.buf := rfl
@[simp] theorem State.setChk_pending (v : Byte) : (s.setChk v).pending = s.pending := rfl

@[simp] theorem State.setBuf_cfg (m : Memory) : (s.setBuf m).cfg = s.cfg := rfl
@[simp] theorem State.setBuf_st (m : Memory) : (s.setBuf m).st = s.st := rfl
@[simp] theorem State.setBuf_expLen (m : Memory) : (s.setBuf m).expLen = s.expLen := rfl
@[simp] theorem State.setBuf_fill (m : Memory) : (s.setBuf m).fill = s.fill := rfl
@[simp] theorem State.setBuf_chk (m : Memory) : (s.setBuf m).chk = s.chk := rfl
@[simp] theorem State.setBuf_buf (m : Memory) : (s.setBuf m).buf = m := rfl
@[simp] theorem State.setBuf_pending (m : Memory) : (s.setBuf m).pending = s.pending := rfl

@[simp] theorem State.setPending_cfg (ps : List PortInput) : (s.setPending ps).cfg = s.cfg := rfl
@[simp] theorem State.setPending_st (ps : List PortInput) : (s.setPending ps).st = s.st := rfl
@[simp] theorem State.setPending_expLen (ps : List PortInput) : (s.setPending ps).expLen = s.expLen := rfl
@[simp] theorem State.setPending_fill (ps : List PortInput) : (s.setPending ps).fill = s.fill := rfl
@[simp] theorem State.setPending_chk (ps : List PortInput) : (s.setPending ps).chk = s.chk := rfl
@[simp] theorem State.setPending_buf (ps : List PortInput) : (s.setPending ps).buf = s.buf := rfl
@[simp] theorem State.setPending_pending (ps : List PortInput) : (s.setPending ps).pending = ps := rfl

@[simp] theorem State.resetOf_cfg (c : Config) : (State.resetOf c).cfg = c := rfl
@[simp] theorem State.resetOf_st (c : Config) : (State.resetOf c).st = .awaitingSync := rfl
@[simp] theorem State.resetOf_expLen (c : Config) : (State.resetOf c).expLen = 0xFF#8 := rfl
@[simp] theorem State.resetOf_fill (c : Config) : (State.resetOf c).fill = 0x00#8 := rfl
@[simp] theorem State.resetOf_chk (c : Config) : (State.resetOf c).chk = 0x00#8 := rfl
@[simp] theorem State.resetOf_buf (c : Config) : (State.resetOf c).buf = [] := rfl
@[simp] theorem State.resetOf_pending (c : Config) : (State.resetOf c).pending = [] := rfl

@[simp] theorem State.applyReset_cfg : s.applyReset.cfg = s.cfg := rfl
@[simp] theorem State.applyReset_st : s.applyReset.st = .awaitingSync := rfl
@[simp] theorem State.applyReset_expLen : s.applyReset.expLen = 0xFF#8 := rfl
@[simp] theorem State.applyReset_fill : s.applyReset.fill = 0x00#8 := rfl
@[simp] theorem State.applyReset_chk : s.applyReset.chk = 0x00#8 := rfl
@[simp] theorem State.applyReset_buf : s.applyReset.buf = [] := rfl
@[simp] theorem State.applyReset_pending : s.applyReset.pending = s.pending := rfl

@[simp] theorem State.resync_cfg : s.resync.cfg = s.cfg := rfl
@[simp] theorem State.resync_st : s.resync.st = .awaitingSync := rfl
@[simp] theorem State.resync_expLen : s.resync.expLen = s.expLen := rfl
@[simp] theorem State.resync_fill : s.resync.fill = s.fill := rfl
@[simp] theorem State.resync_chk : s.resync.chk = s.chk := rfl
@[simp] theorem State.resync_buf : s.resync.buf = s.buf := rfl
@[simp] theorem State.resync_pending : s.resync.pending = s.pending := rfl

@[simp] theorem State.acceptLength_cfg (b : Byte) : (s.acceptLength b).cfg = s.cfg := rfl
@[simp] theorem State.acceptLength_st (b : Byte) : (s.acceptLength b).st = .accumulatingPayload := rfl
@[simp] theorem State.acceptLength_expLen (b : Byte) : (s.acceptLength b).expLen = b - 1#8 := rfl
@[simp] theorem State.acceptLength_fill (b : Byte) : (s.acceptLength b).fill = 0x00#8 := rfl
@[simp] theorem State.acceptLength_chk (b : Byte) : (s.acceptLength b).chk = s.cfg.syncByte + s.cfg.syncByte + b := rfl
@[simp] theorem State.acceptLength_buf (b : Byte) : (s.acceptLength b).buf = s.buf := rfl
@[simp] theorem State.acceptLength_pending (b : Byte) : (s.acceptLength b).pending = s.pending := rfl

@[simp] theorem State.presentFirst_pending (inp : PortInput) :
    (s.presentFirst inp).pending = inp :: s.pending := rfl

omit s in
/-- Two states with the same seven fields are the same state. -/
theorem State.eq_of_fields {s t : State} (h1 : s.cfg = t.cfg) (h2 : s.st = t.st) (h3 : s.expLen = t.expLen)
    (h4 : s.fill = t.fill) (h5 : s.chk = t.chk) (h6 : s.buf = t.buf) (h7 : s.pending = t.pending) : s = t := by
  cases s
  cases t
  simp_all

@[simp] theorem State.setPending_self : s.setPending s.pending = s := rfl

omit s in
/-- `ready` is the test for PayloadReady. -/
@[simp] theorem State.ready_iff {s : State} : s.ready = true ↔ s.st = .payloadReady := by
  simp [State.ready]

omit s in
@[simp] theorem State.ready_eq_false_iff {s : State} : s.ready = false ↔ s.st ≠ .payloadReady := by
  simp [State.ready]

omit s in
@[simp] theorem State.takesByte_eq_false_iff {s : State} : s.takesByte = false ↔ s.st = .payloadReady := by
  simp [State.takesByte]

omit s in
@[simp] theorem State.takesByte_iff {s : State} : s.takesByte = true ↔ s.st ≠ .payloadReady := by
  simp [State.takesByte, State.ready]

/-- `len` by the Decoder State (R24). -/
theorem State.len_eq : s.len = if s.st = .payloadReady then s.expLen else 0xFF#8 := by
  by_cases h : s.st = .payloadReady <;> simp [State.len, State.ready, sentinel, h]

omit s in
/-- `inFrame` names the three states of R27 item 2. -/
theorem State.inFrame_iff {s : State} :
    s.inFrame = true ↔ s.st = .accumulatingPayload ∨ s.st = .checksumPending ∨ s.st = .payloadReady := by
  cases h : s.st <;> simp [State.inFrame, h]

end Sys2Proof.Machine
end

