-- ==== Sys2Proof/Laws/Ops.lean ====
section
/-! SUPPORT. For each shared operation, everything it can do, said once. -/

namespace Sys2Proof.Machine

/-- The buffer write answers a next state exactly when the index names a cell, and then only that cell changes. -/
theorem State.storeCell_next_iff {s t : State} {i : Nat} {b : Byte} :
    s.storeCell i b = .next t ↔ i < s.cfg.maxPayloadSize ∧ t = s.setBuf (s.buf.write i b) := by
  by_cases h : i < s.cfg.maxPayloadSize
  · simp [State.storeCell, State.cellExists, h, eq_comm]
  · simp [State.storeCell, State.cellExists, h]

/-- The buffer write of a cell that exists. -/
theorem State.storeCell_of_lt {s : State} {i : Nat} (b : Byte) (h : i < s.cfg.maxPayloadSize) :
    s.storeCell i b = .next (s.setBuf (s.buf.write i b)) :=
  State.storeCell_next_iff.2 ⟨h, rfl⟩

/-- The buffer write is never refused. -/
theorem State.storeCell_ne_refused (s : State) (i : Nat) (b : Byte) (r : Refusal) :
    s.storeCell i b ≠ .refused r := by
  unfold State.storeCell
  split <;> simp

/-- The buffer write keeps the canonical form. -/
theorem State.storeCell_wf {s t : State} {i : Nat} {b : Byte} (h : s.storeCell i b = .next t) (hs : s.buf.wf) :
    t.buf.wf := by
  obtain ⟨-, rfl⟩ := State.storeCell_next_iff.1 h
  exact Memory.write_wf i b hs

/-- The reset state's buffer is in the canonical form. -/
theorem State.reset_buf_wf : State.reset.buf.wf := List.Pairwise.nil

/-- MAX_PAYLOAD_SIZE is 1..254 in every configuration (R5). -/
theorem Config.maxPayloadSize_bounds (c : Config) : 1 ≤ c.maxPayloadSize ∧ c.maxPayloadSize ≤ 254 := by
  have := c.lastCell.isLt
  unfold Config.maxPayloadSize
  omega

/-- The accepted window of LEN, in numbers (R64). -/
theorem lenAccepted_iff {c : Config} {b : Byte} :
    lenAccepted c b = true ↔ 2 ≤ b.toNat ∧ b.toNat ≤ c.maxPayloadSize + 1 := by
  simp only [lenAccepted, Bool.and_eq_true, decide_eq_true_eq]
  rfl

/-- A LEN byte in the accepted window gives a length in 1..MAX_PAYLOAD_SIZE (R65, R18). -/
theorem expectedLength_bounds {c : Config} {b : Byte} (h : lenAccepted c b = true) :
    (expectedLength b).toNat = b.toNat - 1 ∧ 1 ≤ (expectedLength b).toNat ∧
      (expectedLength b).toNat ≤ c.maxPayloadSize := by
  obtain ⟨h2, hmax⟩ := lenAccepted_iff.1 h
  have hb : (b - 1#8).toNat = b.toNat - 1 := by
    have := b.isLt
    simp only [BitVec.toNat_sub, BitVec.toNat_ofNat]
    omega
  rw [expectedLength, hb]
  omega

end Sys2Proof.Machine
end

