-- ==== Sys2Proof/Laws/PerInstr.lean ====
section
/-! SUPPORT. Facts about each operation as syntax, one lemma per constructor. -/

namespace Sys2Proof.Laws

/-- The `match` of the operation's row in opcode_table.json. -/
def rowMatch : Instr → OpWord
  | .nop => 0x000#10
  | .byte _ => 0x100#10
  | .ack => 0x200#10

/-- The operation is well formed and its word lies in its row of the opcode table: word & 0x300 = match. -/
def TableRow.Statement (i : Instr) : Prop :=
  i.wellFormed = true ∧ encode i &&& 0x300#10 = rowMatch i

theorem TableRow.nop : TableRow.Statement .nop := by
  unfold TableRow.Statement
  decide

theorem TableRow.byte (b : Byte) : TableRow.Statement (.byte b) := by
  refine ⟨rfl, ?_⟩
  show opWord 0b01#2 b &&& 0x300#10 = 0x100#10
  revert b
  decide

theorem TableRow.ack : TableRow.Statement .ack := by
  unfold TableRow.Statement
  decide

end Sys2Proof.Laws
end

