-- ==== Sys2Proof/Laws/Poll.lean ====
section
/-! SUPPORT. Everything a poll or an acknowledge can do, said once; invariants and frames are read off these. -/

namespace Sys2Proof.Machine

/-- The state a payload byte leaves (R66). -/
theorem byteAccumulatingPayload_next_iff {b : Byte} {s t : State} :
    byteAccumulatingPayload b s = .next t ↔
      s.fill.toNat < s.cfg.maxPayloadSize ∧
        t = (((s.setBuf (s.buf.write s.fill.toNat b)).setFill (s.fill + 1#8)).setChk (s.chk + b)).setSt
          s.afterPayloadByte := by
  by_cases h : s.fill.toNat < s.cfg.maxPayloadSize
  · simp [byteAccumulatingPayload, State.storeIndex, State.storeCell_of_lt b h, h, eq_comm]
  · simp [byteAccumulatingPayload, State.storeIndex, State.storeCell, State.cellExists, h]

/-- Each branch of each row, its test given. -/
theorem byteAwaitingSync_pos {b : Byte} {s : State} (h : b = s.cfg.syncByte) : byteAwaitingSync b s = .next (s.setSt .syncByte1Seen) :=
  if_pos h

theorem byteAwaitingSync_neg {b : Byte} {s : State} (h : ¬b = s.cfg.syncByte) : byteAwaitingSync b s = .next s :=
  if_neg h

theorem byteSyncByte1Seen_pos {b : Byte} {s : State} (h : b = s.cfg.syncByte) : byteSyncByte1Seen b s = .next (s.setSt .lengthReceived) :=
  if_pos h

theorem byteSyncByte1Seen_neg {b : Byte} {s : State} (h : ¬b = s.cfg.syncByte) : byteSyncByte1Seen b s = .next s.resync :=
  if_neg h

theorem byteLengthReceived_pos {b : Byte} {s : State} (h : lenAccepted s.cfg b = true) : byteLengthReceived b s = .next (s.acceptLength b) :=
  if_pos h

theorem byteLengthReceived_neg {b : Byte} {s : State} (h : ¬lenAccepted s.cfg b = true) : byteLengthReceived b s = .next s.resync :=
  if_neg h

theorem byteChecksumPending_pos {b : Byte} {s : State} (h : b = s.chk) : byteChecksumPending b s = .next (s.setSt .payloadReady) :=
  if_pos h

theorem byteChecksumPending_neg {b : Byte} {s : State} (h : ¬b = s.chk) : byteChecksumPending b s = .next s.resync :=
  if_neg h

/-- A payload byte for which `fill` names no cell (log 7). -/
theorem byteAccumulatingPayload_fault {b : Byte} {s : State} (h : ¬s.fill.toNat < s.cfg.maxPayloadSize) :
    byteAccumulatingPayload b s = .fault .noSuchCell := by
  simp [byteAccumulatingPayload, State.storeIndex, State.storeCell, State.cellExists, h]

/-- BYTE in a state that takes bytes is the consumption of the byte (R58). -/
theorem execByte_of_takes {s : State} (b : Byte) (h : s.st ≠ .payloadReady) : execByte b s = consumeByte b s := by
  simp [execByte, State.takesByte, State.ready, h]

/-- BYTE, the state known: the row of the state machine that applies. -/
theorem execByte_awaitingSync {s : State} (b : Byte) (h : s.st = .awaitingSync) :
    execByte b s = byteAwaitingSync b s := by
  simp [execByte_of_takes, consumeByte, h]

theorem execByte_syncByte1Seen {s : State} (b : Byte) (h : s.st = .syncByte1Seen) :
    execByte b s = byteSyncByte1Seen b s := by
  simp [execByte_of_takes, consumeByte, h]

theorem execByte_lengthReceived {s : State} (b : Byte) (h : s.st = .lengthReceived) :
    execByte b s = byteLengthReceived b s := by
  simp [execByte_of_takes, consumeByte, h]

theorem execByte_accumulatingPayload {s : State} (b : Byte) (h : s.st = .accumulatingPayload) :
    execByte b s = byteAccumulatingPayload b s := by
  simp [execByte_of_takes, consumeByte, h]

theorem execByte_checksumPending {s : State} (b : Byte) (h : s.st = .checksumPending) :
    execByte b s = byteChecksumPending b s := by
  simp [execByte_of_takes, consumeByte, h]

theorem execByte_payloadReady {s : State} (b : Byte) (h : s.st = .payloadReady) : execByte b s = .next s := by
  simp [execByte, State.takesByte, State.ready, h]

/-- The cases of a BYTE operation that answers a next state, guards included. -/
theorem execByte_cases {b : Byte} {s t : State} (h : execByte b s = .next t) :
    (s.st = .payloadReady ∧ t = s) ∨
    (s.st = .awaitingSync ∧ b = s.cfg.syncByte ∧ t = s.setSt .syncByte1Seen) ∨
    (s.st = .awaitingSync ∧ b ≠ s.cfg.syncByte ∧ t = s) ∨
    (s.st = .syncByte1Seen ∧ b = s.cfg.syncByte ∧ t = s.setSt .lengthReceived) ∨
    (s.st = .syncByte1Seen ∧ b ≠ s.cfg.syncByte ∧ t = s.resync) ∨
    (s.st = .lengthReceived ∧ lenAccepted s.cfg b = true ∧ t = s.acceptLength b) ∨
    (s.st = .lengthReceived ∧ lenAccepted s.cfg b = false ∧ t = s.resync) ∨
    (s.st = .accumulatingPayload ∧ s.fill.toNat < s.cfg.maxPayloadSize ∧
      t = (((s.setBuf (s.buf.write s.fill.toNat b)).setFill (s.fill + 1#8)).setChk (s.chk + b)).setSt
        s.afterPayloadByte) ∨
    (s.st = .checksumPending ∧ b = s.chk ∧ t = s.setSt .payloadReady) ∨
    (s.st = .checksumPending ∧ b ≠ s.chk ∧ t = s.resync) := by
  unfold execByte consumeByte at h
  cases hst : s.st with
  | awaitingSync =>
    by_cases hb : b = s.cfg.syncByte <;>
      simp_all [State.takesByte, State.ready, byteAwaitingSync]
  | syncByte1Seen =>
    by_cases hb : b = s.cfg.syncByte <;>
      simp_all [State.takesByte, State.ready, byteSyncByte1Seen]
  | lengthReceived =>
    by_cases hb : lenAccepted s.cfg b = true <;>
      simp_all [State.takesByte, State.ready, byteLengthReceived]
  | accumulatingPayload =>
    simp only [State.takesByte, State.ready, hst] at h
    have := byteAccumulatingPayload_next_iff.1 (by simpa using h)
    simp [this]
  | checksumPending =>
    by_cases hb : b = s.chk <;>
      simp_all [State.takesByte, State.ready, byteChecksumPending]
  | payloadReady => simp_all [State.takesByte, State.ready]

/-- BYTE is never refused. -/
theorem execByte_ne_refused (b : Byte) (s : State) (r : Refusal) : execByte b s ≠ .refused r := by
  unfold execByte consumeByte
  cases hst : s.st with
  | accumulatingPayload =>
    by_cases h : s.fill.toNat < s.cfg.maxPayloadSize <;>
      simp [State.takesByte, State.ready, hst, byteAccumulatingPayload, State.storeIndex, State.storeCell,
        State.cellExists, h]
  | awaitingSync => simp only [byteAwaitingSync]; (repeat' split) <;> simp
  | syncByte1Seen => simp only [byteSyncByte1Seen]; (repeat' split) <;> simp
  | lengthReceived => simp only [byteLengthReceived]; (repeat' split) <;> simp
  | checksumPending => simp only [byteChecksumPending]; (repeat' split) <;> simp
  | payloadReady => simp

/-- The cases of an operation that answers a next state: NOP changes nothing, ACK writes `exp_len` and `st`,
BYTE as `execByte_cases` says. -/
theorem exec_cases {i : Instr} {s t : State} (h : exec i s = .next t) :
    (i = .nop ∧ t = s) ∨ (i = .ack ∧ t = (s.setExpLen sentinel).setSt .awaitingSync) ∨
      ∃ b, i = .byte b ∧ execByte b s = .next t := by
  cases i with
  | nop => simpa [exec, execNop, eq_comm] using h
  | byte b => exact .inr (.inr ⟨b, rfl, h⟩)
  | ack => simpa [exec, execAck, eq_comm] using h

/-- No operation touches the configuration or what the host will present (R9). -/
theorem exec_cfg_pending {i : Instr} {s t : State} (h : exec i s = .next t) :
    t.cfg = s.cfg ∧ t.pending = s.pending := by
  obtain ⟨-, rfl⟩ | ⟨-, rfl⟩ | ⟨b, -, hb⟩ := exec_cases h
  · simp
  · simp
  · rcases execByte_cases hb with h | h | h | h | h | h | h | h | h | h <;> simp [h]

/-- An outcome with a function applied to its next state. -/
def mapNext (f : State → State) : Host.Outcome State Fault Refusal → Host.Outcome State Fault Refusal
  | .next s => .next (f s)
  | .fault r => .fault r
  | .refused r => .refused r

/-- What the host will present later has no effect on an operation. -/
theorem exec_setPending (i : Instr) (s : State) (ps : List PortInput) :
    exec i (s.setPending ps) = mapNext (fun t => t.setPending ps) (exec i s) := by
  cases i with
  | nop => rfl
  | ack => rfl
  | byte b =>
    show execByte b (s.setPending ps) = mapNext _ (execByte b s)
    cases hst : s.st with
    | awaitingSync =>
      rw [execByte_awaitingSync b hst, execByte_awaitingSync b (s := s.setPending ps) hst]
      by_cases hb : b = s.cfg.syncByte
      · rw [byteAwaitingSync_pos hb, byteAwaitingSync_pos (s := s.setPending ps) hb]
        rfl
      · rw [byteAwaitingSync_neg hb, byteAwaitingSync_neg (s := s.setPending ps) hb]
        rfl
    | syncByte1Seen =>
      rw [execByte_syncByte1Seen b hst, execByte_syncByte1Seen b (s := s.setPending ps) hst]
      by_cases hb : b = s.cfg.syncByte
      · rw [byteSyncByte1Seen_pos hb, byteSyncByte1Seen_pos (s := s.setPending ps) hb]
        rfl
      · rw [byteSyncByte1Seen_neg hb, byteSyncByte1Seen_neg (s := s.setPending ps) hb]
        rfl
    | lengthReceived =>
      rw [execByte_lengthReceived b hst, execByte_lengthReceived b (s := s.setPending ps) hst]
      by_cases hb : lenAccepted s.cfg b = true
      · rw [byteLengthReceived_pos hb, byteLengthReceived_pos (s := s.setPending ps) hb]
        rfl
      · rw [byteLengthReceived_neg hb, byteLengthReceived_neg (s := s.setPending ps) hb]
        rfl
    | accumulatingPayload =>
      rw [execByte_accumulatingPayload b hst, execByte_accumulatingPayload b (s := s.setPending ps) hst]
      by_cases hf : s.fill.toNat < s.cfg.maxPayloadSize
      · rw [byteAccumulatingPayload_next_iff.2 ⟨hf, rfl⟩,
          (byteAccumulatingPayload_next_iff (s := s.setPending ps)).2 ⟨hf, rfl⟩]
        rfl
      · rw [byteAccumulatingPayload_fault hf, byteAccumulatingPayload_fault (s := s.setPending ps) hf]
        rfl
    | checksumPending =>
      rw [execByte_checksumPending b hst, execByte_checksumPending b (s := s.setPending ps) hst]
      by_cases hb : b = s.chk
      · rw [byteChecksumPending_pos hb, byteChecksumPending_pos (s := s.setPending ps) hb]
        rfl
      · rw [byteChecksumPending_neg hb, byteChecksumPending_neg (s := s.setPending ps) hb]
        rfl
    | payloadReady =>
      rw [execByte_payloadReady b hst, execByte_payloadReady b (s := s.setPending ps) hst]
      rfl

end Sys2Proof.Machine
end

