-- ==== Sys2Proof/Laws/Step.lean ====
section
/-! SUPPORT. What a step can do, said once, and the runs. -/

namespace Sys2Proof.Machine

/-- A step with an input presented applies it, the input taken off the list. -/
theorem step_of_pending {s : State} {inp : PortInput} {rest : List PortInput} (h : s.pending = inp :: rest) :
    step s = runInput inp (s.setPending rest) := by
  simp [step, h]

/-- The cases of a step that answers a next state: an input was presented, and it is a reset or an operation. -/
theorem step_cases {s t : State} (h : step s = .next t) :
    ∃ inp rest, s.pending = inp :: rest ∧
      ((inp.rst = true ∧ t = (s.setPending rest).applyReset) ∨
        (inp.rst = false ∧ ∃ i, decode inp.word = .instr i ∧ exec i (s.setPending rest) = .next t)) := by
  cases hp : s.pending with
  | nil => simp [step, hp] at h
  | cons inp rest =>
    refine ⟨inp, rest, rfl, ?_⟩
    rw [step_of_pending hp, runInput] at h
    cases hr : inp.rst with
    | true => simp_all
    | false =>
      cases hd : decode inp.word with
      | instr i => simp_all
      | reservedOp => simp_all

/-- A run of one step more. -/
theorem run_succ_of_next {s t : State} (k : Nat) (h : step s = .next t) : run (k + 1) s = run k t := by
  simp [run, h]

/-- A run in two parts. -/
theorem run_add {j k : Nat} {s t : State} (h : run j s = .next t) : run (j + k) s = run k t := by
  induction j generalizing s with
  | zero => simp_all [run]
  | succ j ih =>
    rw [Nat.add_right_comm]
    cases hs : step s with
    | next u => rw [run_succ_of_next _ hs] at h ⊢; exact ih h
    | fault r => simp [run, hs] at h
    | refused r => simp [run, hs] at h

/-- `run` is the host's run of the machine. -/
theorem run_eq_core_run (k : Nat) (s : State) : run k s = Host.Core.run Sys2Proof.core k s := by
  induction k generalizing s with
  | zero => rfl
  | succ k ih =>
    have hstep : Host.Core.step Sys2Proof.core s = step s := rfl
    rw [run, Host.Core.run.eq_2 Sys2Proof.core s k, hstep]
    cases step s with
    | next t => exact ih t
    | fault r => rfl
    | refused r => rfl

end Sys2Proof.Machine
end

