-- ==== Sys2Proof/Tests/Slice0.lean ====
section
/-! SUPPORT. The model's own tests, and for every statement with hypotheses a state and operands that meet them.
Expected values are the vectors of spec/95_test_vectors.md (V-…) or written out from the rules cited. -/

namespace Sys2Proof.Tests

open Sys2Proof.Machine

/-- A state of the vectors' configuration (MAX_PAYLOAD_SIZE = 8, SYNC_BYTE = 0xAA), written
(st, exp_len, fill, chk) with its buffer and what is presented. -/
def st8 (st : DecoderState) (e f c : Byte) (buf : Memory := []) (ps : List PortInput := []) : State :=
  ⟨Config.standard, st, e, f, c, buf, ps⟩

/-- A word presented with reset not asserted. -/
def word (w : OpWord) : PortInput := ⟨false, w, 0x00#8⟩

/-- The state of W1 before, in and after its payload (95 section 1). -/
def accumulating : State := st8 .accumulatingPayload 0x02 1 0x67 [(0, 0x10)]
def pendingChecksum : State := st8 .checksumPending 0x02 2 0x87 [(0, 0x10), (1, 0x20)]
def readyState : State := st8 .payloadReady 0x02 2 0x87 [(0, 0x10), (1, 0x20)]
/-- AwaitingSync with the stale values of W1's failed stream. -/
def stale : State := st8 .awaitingSync 0x02 2 0x87 [(0, 0x10), (1, 0x20)]

/-! ## Well-formedness: each check refuses an ill-formed line, and accepts at its boundary -/

theorem test_wf_byte_256 : (AsmLine.byte 256).wellFormed Config.standard = false := by decide
theorem test_wf_byte_255 : (AsmLine.byte 255).wellFormed Config.standard = true := by decide
theorem test_wf_frame_empty : (AsmLine.frame []).wellFormed Config.standard = false := by decide
theorem test_wf_frame_nine : (AsmLine.frame [1, 2, 3, 4, 5, 6, 7, 8, 9]).wellFormed Config.standard = false := by decide
theorem test_wf_frame_eight : (AsmLine.frame [1, 2, 3, 4, 5, 6, 7, 8]).wellFormed Config.standard = true := by decide
theorem test_wf_frame_literal : (AsmLine.frame [300]).wellFormed Config.standard = false := by decide
theorem test_wf_raw_empty : (AsmLine.raw []).wellFormed Config.standard = false := by decide
theorem test_wf_raw_literal : (AsmLine.raw [0, 256]).wellFormed Config.standard = false := by decide

/-! ## Decoding: words written out from R46 to R49 -/

theorem test_decode_nop_din : decode 0b00_11111111#10 = .instr .nop := by decide
theorem test_decode_byte : decode 0b01_10101010#10 = .instr (.byte 0xAA#8) := by decide
theorem test_decode_ack_din : decode 0b10_11111111#10 = .instr .ack := by decide
theorem test_decode_reserved : decode 0b11_10101010#10 = .reservedOp := by decide
theorem test_decode_table_byte : decodeTableWord 16 0x10A = some (.byte 0x0A#8) := by decide

/-! ## One step of each operation -/

/-- V-NOP-6. -/
theorem test_nop_ready : exec .nop readyState = .next readyState ∧ readyState.len = 0x02#8 := ⟨rfl, rfl⟩
/-- V-AP-5: the last cell, and the checksum wraps. -/
theorem test_byte_last_cell : exec (.byte 0xFF#8) (st8 .accumulatingPayload 0x08 7 0x56) =
    .next (st8 .checksumPending 0x08 8 0x55 [(7, 0xFF)]) := rfl
/-- V-LR-11: MAX_PAYLOAD_SIZE = 254, the upper test never fires. -/
theorem test_byte_largest_length :
    exec (.byte 0xFF#8) { st8 .lengthReceived 0xFF 0 0x00 with cfg := ⟨253, 0xAA#8⟩ } =
      .next { st8 .accumulatingPayload 0xFE 0 0x53 with cfg := ⟨253, 0xAA#8⟩ } := rfl
/-- V-ACK-5. -/
theorem test_ack_mid_frame : exec .ack (st8 .accumulatingPayload 0x03 1 0x59) =
    .next (st8 .awaitingSync 0xFF 1 0x59) := rfl
/-- V-RST-1. -/
theorem test_reset_step : step { readyState with pending := [⟨true, 0x1AA#10, 0⟩] } = .next State.reset := rfl
/-- V-RD-1 to V-RD-5. -/
theorem test_read_port : [0, 1, 2, 8].map readyState.rdData = [some 0x10#8, some 0x20#8, none, none] ∧
    stale.rdData 0 = none := by decide
/-- The first step after reset runs the word presented (V-AS-1). -/
theorem test_fetch_runs : step (State.reset.withFetchWord 16 0x1AA) = .next (st8 .syncByte1Seen 0xFF 0 0x00) := rfl

/-! ## The assembler: the example of R54, P2's first line, an error of syntax -/

theorem test_assemble_frame : assembleLine Config.standard
    ['F', 'R', 'A', 'M', 'E', ' ', '0', 'x', '1', '0', ',', ' ', '0', 'x', '2', '0', ' ', ';', ' ', 'x'] =
      some [0x1AA#10, 0x1AA#10, 0x103#10, 0x110#10, 0x120#10, 0x187#10] := by decide
theorem test_assemble_raw : assembleLine Config.standard
    ['R', 'A', 'W', ' ', '8', '5', ',', ' ', '0', 'x', 'A', 'A', ',', '0', 'x', '0', '0'] =
      some [0x155#10, 0x1AA#10, 0x100#10] := by decide
theorem test_assemble_byte_256 : assembleLine Config.standard ['B', 'Y', 'T', 'E', ' ', '2', '5', '6'] = none := by
  decide

/-! ## Witnesses: the hypotheses of each statement are met -/

theorem witness_OperationSelectedByHighBitsAlone :
    0x0FF#10 &&& 0x300#10 = 0x000#10 ∧ 0x1FF#10 &&& 0x300#10 = 0x100#10 ∧ 0x2FF#10 &&& 0x300#10 = 0x200#10 ∧
      0x3FF#10 &&& 0x300#10 = 0x300#10 := by decide
theorem witness_DecodeInvertsEncode :
    decode 0x1FF#10 = .instr (.byte 0xFF#8) ∧ decode 0x0FF#10 = .instr .nop ∧ decode 0x2FF#10 = .instr .ack := by
  decide
theorem witness_StepRunsDecodedOperation :
    (st8 .awaitingSync 0xFF 0 0 [] [word 0x1AA]).pending = [word 0x1AA] ∧ (word 0x1AA).rst = false ∧
      decode (word 0x1AA).word = .instr (.byte 0xAA#8) := by decide
theorem witness_FetchedWordRunsNext : decodeTableWord 16 0x1AA = some (.byte 0xAA#8) := by decide
theorem witness_PresentedOperationsRunInOrder :
    State.reset.pending = [] ∧
      execAll [.byte 0xAA#8, .nop, .ack] State.reset = .next (st8 .awaitingSync 0xFF 0 0x00) := ⟨rfl, rfl⟩
/-- V-REF-1. -/
theorem witness_ReservedWordIsRefused :
    (st8 .awaitingSync 0xFF 0 0 [] [word 0x3AA]).pending = [word 0x3AA] ∧ (word 0x3AA).rst = false ∧
      opField (word 0x3AA).word = 0b11#2 := by decide
theorem witness_NothingPresentedNoStep : State.reset.pending = [] := rfl
theorem witness_NopWritesNothing :
    0x0FF#10 &&& 0x300#10 = 0x000#10 ∧
      (st8 .awaitingSync 0xFF 0 0 [] [⟨false, 0x0FF#10, 0x00#8⟩]).pending = [⟨false, 0x0FF#10, 0x00#8⟩] := by decide
theorem witness_ParkedWhileNoByteArrives :
    (∀ inp ∈ [word 0x000, word 0x0FF], inp.presents .nop) ∧
      { accumulating with pending := [word 0x000, word 0x0FF] }.pending = [word 0x000, word 0x0FF] ++ [] := by
  simp [PortInput.presents, word]
  decide
theorem witness_ByteInAwaitingSync :
    State.reset.st = .awaitingSync ∧ 0xAA#8 = State.reset.cfg.syncByte ∧ 0xAB#8 ≠ State.reset.cfg.syncByte := by
  decide
theorem witness_NoiseBeforeSyncIsDiscarded :
    stale.st = .awaitingSync ∧ (∀ b ∈ [0x55#8, 0xAB#8], b ≠ stale.cfg.syncByte) ∧
      { stale with pending := byteInputs [0x55#8, 0xAB#8] }.pending = byteInputs [0x55#8, 0xAB#8] ++ [] := by decide
theorem witness_SecondSyncByteAwaitsLength : (st8 .syncByte1Seen 0xFF 0 0).st = .syncByte1Seen := rfl
theorem witness_BadSecondSyncResynchronises :
    (st8 .syncByte1Seen 0x05 5 0x10).st = .syncByte1Seen ∧ 0x55#8 ≠ (st8 .syncByte1Seen 0x05 5 0x10).cfg.syncByte := by
  decide
theorem witness_AcceptedLengthStartsPayload :
    (st8 .lengthReceived 0xFF 0 0).st = .lengthReceived ∧ 2 ≤ (0x02#8).toNat ∧
      (0x09#8).toNat ≤ (st8 .lengthReceived 0xFF 0 0).cfg.maxPayloadSize + 1 := by decide
theorem witness_RejectedLengthResynchronises :
    (st8 .lengthReceived 0xFF 0 0).st = .lengthReceived ∧ (0x01#8).toNat < 2 ∧
      (st8 .lengthReceived 0xFF 0 0).cfg.maxPayloadSize + 1 < (0x0A#8).toNat := by decide
theorem witness_RejectedLengthResynchronises_254 :
    let s : State := { st8 .lengthReceived 0xFF 0 0 with cfg := ⟨253, 0xAA#8⟩ }
    s.st = .lengthReceived ∧ s.cfg.maxPayloadSize = 254 ∧ s.framingError 0x01#8 = some .badLength := by decide
theorem witness_PayloadByteIsStoredAndSummed :
    (st8 .accumulatingPayload 0x08 7 0x56).st = .accumulatingPayload ∧
      (st8 .accumulatingPayload 0x08 7 0x56).fill.toNat < (st8 .accumulatingPayload 0x08 7 0x56).cfg.maxPayloadSize := by
  decide
theorem witness_StoreOutsideTheBufferFaults :
    (st8 .accumulatingPayload 0x09 8 0).st = .accumulatingPayload ∧
      (st8 .accumulatingPayload 0x09 8 0).cfg.maxPayloadSize ≤ (st8 .accumulatingPayload 0x09 8 0).fill.toNat := by
  decide
theorem witness_MatchingChecksumMakesReady : pendingChecksum.st = .checksumPending := rfl
theorem witness_WrongChecksumResynchronises : pendingChecksum.st = .checksumPending ∧ 0x88#8 ≠ pendingChecksum.chk := by
  decide
theorem witness_ByteIsHeldWhileReady : readyState.st = .payloadReady := rfl
theorem witness_AckReturnsToAwaitingSync :
    0x2FF#10 &&& 0x300#10 = 0x200#10 ∧
      { readyState with pending := [⟨false, 0x2FF#10, 0x00#8⟩] }.pending = [⟨false, 0x2FF#10, 0x00#8⟩] := by decide
theorem witness_AckInAwaitingSyncIsUnobservable :
    stale.Inv ∧ stale.st = .awaitingSync ∧
      exec .ack stale = .next (st8 .awaitingSync 0xFF 2 0x87 [(0, 0x10), (1, 0x20)]) := ⟨by decide, rfl, rfl⟩
theorem witness_OnlyAckOrResetReleasesThePayload_poll :
    readyState.st = .payloadReady ∧ step { readyState with pending := [word 0x1AA] } = .next readyState := ⟨rfl, rfl⟩
theorem witness_OnlyAckOrResetReleasesThePayload_ack :
    step { readyState with pending := [word 0x200] } =
      .next (st8 .awaitingSync 0xFF 2 0x87 [(0, 0x10), (1, 0x20)]) := rfl
/-- V-AP-2 stores; the other two operations compute no address. -/
theorem witness_OnlyTheCellAtFillIsWritten :
    exec (.byte 0x20#8) accumulating = .next pendingChecksum ∧
      accumulating.storeAddress (.byte 0x20#8) = some 1 ∧ accumulating.storeAddress .nop = none ∧
      exec .nop accumulating = .next accumulating := ⟨rfl, rfl, rfl, rfl⟩
/-- V-LR-4 writes all three registers. -/
theorem witness_RegistersChangeOnlyByTheirWriters :
    exec (.byte 0x03#8) (st8 .lengthReceived 0xFF 1 0x00) = .next (st8 .accumulatingPayload 0x02 0 0x57) := rfl
/-- V-S1-3 (outside LengthReceived and AccumulatingPayload). -/
theorem witness_ByteFrameStateByState :
    exec (.byte 0x55#8) (st8 .syncByte1Seen 0x05 5 0x10) = .next (st8 .awaitingSync 0x05 5 0x10) ∧
      exec (.byte 0x20#8) accumulating = .next pendingChecksum := ⟨rfl, rfl⟩
theorem witness_ConfigurationNeverChanges :
    run 1 { readyState with pending := [word 0x000] } = .next readyState := rfl
theorem witness_EveryFramingErrorOnlyResynchronises :
    (st8 .syncByte1Seen 0x05 5 0x10).framingError 0x55#8 = some .badSync ∧
      (st8 .lengthReceived 0xFF 0 0).framingError 0x0A#8 = some .badLength ∧
      pendingChecksum.framingError 0xF9#8 = some .badChecksum := by decide
/-- V-CP-3. -/
theorem witness_ByteResynchronisesOnlyByFramingError : exec (.byte 0xAA#8) pendingChecksum = .next stale := rfl
theorem witness_TakeExactlyWhenByteIsConsumed :
    (word 0x1AA).presents (.byte 0xAA#8) ∧ take (word 0x1AA) readyState = false ∧
      take (word 0x1AA) accumulating = true := ⟨⟨rfl, by decide⟩, by decide, by decide⟩
/-- V-CP-1 sets `ready`, V-ACK-1 clears it. -/
theorem witness_ReadySetAndClearedOnlyAsStated :
    step { pendingChecksum with pending := [word 0x187] } = .next readyState ∧ pendingChecksum.ready = false ∧
      readyState.ready = true ∧ step { readyState with pending := [⟨true, 0x000#10, 0⟩] } = .next State.reset ∧
      State.reset.ready = false := ⟨rfl, rfl, rfl, rfl, rfl⟩
theorem witness_PollResultTellsReadyLength : readyState.Inv ∧ stale.Inv := by decide
theorem witness_ReadPortDefinedExactlyInWindow :
    readyState.Inv ∧ readyState.st = .payloadReady ∧ (0x01#8).toNat < readyState.expLen.toNat := by decide
theorem witness_PayloadIsStableUntilAcknowledged :
    readyState.st = .payloadReady ∧ (∀ inp ∈ [word 0x000, word 0x1AA], inp.isPoll) ∧
      { readyState with pending := [word 0x000, word 0x1AA] }.pending = [word 0x000, word 0x1AA] ++ [] := by
  refine ⟨rfl, fun inp h => ?_, rfl⟩
  simp only [List.mem_cons, List.not_mem_nil, or_false] at h
  rcases h with rfl | rfl
  · exact .inl ⟨rfl, by decide⟩
  · exact .inr ⟨0xAA#8, rfl, by decide⟩
theorem witness_ResetOverridesTheOperation :
    { readyState with pending := [⟨true, 0x3AA#10, 0⟩] }.pending = [⟨true, 0x3AA#10, 0⟩] ∧
      (⟨true, 0x3AA#10, 0⟩ : PortInput).rst = true := ⟨rfl, rfl⟩
theorem witness_ResetRegisterValuesAreUnobservable : stale.Inv ∧ stale.st = .awaitingSync := by decide
theorem witness_EveryStepKeepsInvariants :
    { accumulating with pending := [word 0x120] }.Inv ∧
      step { accumulating with pending := [word 0x120] } = .next pendingChecksum := ⟨by decide, rfl⟩
theorem witness_EveryOperationCompletes : accumulating.Inv ∧ accumulating.storeAddress (.byte 0x20#8) = some 1 := by
  decide
theorem witness_BlockNeverStops :
    let ops := [word 0x120, word 0x0FF, ⟨true, 0x3AA#10, 0⟩, word 0x200]
    { accumulating with pending := ops }.Inv ∧ { accumulating with pending := ops }.pending = ops ++ [] ∧
      ∀ inp ∈ ops, inp.rst = true ∨ decode inp.word ≠ .reservedOp := by decide
theorem witness_PayloadAccumulatesInArrivalOrder :
    let s := st8 .accumulatingPayload 0x02 0 0x57 [] (byteInputs [0x10#8, 0x20#8])
    s.st = .accumulatingPayload ∧ s.fill = 0x00#8 ∧ 1 ≤ s.expLen.toNat ∧ s.expLen.toNat ≤ s.cfg.maxPayloadSize ∧
      [0x10#8, 0x20#8].length ≤ s.expLen.toNat ∧ s.pending = byteInputs [0x10#8, 0x20#8] ++ [] := by decide
/-- W1's frame with NOPs between its bytes, from a state with stale registers. -/
theorem witness_ValidFrameIsDecoded :
    let ops := [word 0x1AA, word 0x000, word 0x1AA, word 0x103, word 0x110, word 0x0FF, word 0x120, word 0x187]
    stale.st = .awaitingSync ∧ framable stale.cfg [0x10#8, 0x20#8] ∧ (∀ inp ∈ ops, inp.isPoll) ∧
      bytesPresented ops = frameBytes stale.cfg [0x10#8, 0x20#8] ∧ { stale with pending := ops }.pending = ops ++ [] := by
  refine ⟨rfl, by decide, fun inp h => ?_, by decide, rfl⟩
  simp only [List.mem_cons, List.not_mem_nil, or_false] at h
  rcases h with rfl | rfl | rfl | rfl | rfl | rfl | rfl | rfl
  · exact .inr ⟨0xAA#8, rfl, by decide⟩
  · exact .inl ⟨rfl, by decide⟩
  · exact .inr ⟨0xAA#8, rfl, by decide⟩
  · exact .inr ⟨0x03#8, rfl, by decide⟩
  · exact .inr ⟨0x10#8, rfl, by decide⟩
  · exact .inl ⟨rfl, by decide⟩
  · exact .inr ⟨0x20#8, rfl, by decide⟩
  · exact .inr ⟨0x87#8, rfl, by decide⟩
/-- The shortest and the longest payload can be framed. -/
theorem witness_ValidFrameIsDecoded_bounds :
    framable Config.standard [0x41#8] ∧ framable Config.standard [0#8, 1#8, 2#8, 3#8, 4#8, 5#8, 6#8, 7#8] := by decide
/-- V-MUT-1. -/
theorem witness_ChangedPayloadByteIsRejected :
    let p := [0x10#8, 0x20#8]
    let ps := byteInputs (0xAA#8 :: 0xAA#8 :: lenByte p :: (p.set 1 0x21#8 ++ [frameChecksum Config.standard p])) ++ []
    1 < p.length ∧ stale.st = .awaitingSync ∧ framable stale.cfg p ∧ 0x21#8 ≠ p[1] ∧
      { stale with pending := ps }.pending = ps ∧
      ps = byteInputs [0xAA#8, 0xAA#8, 0x03#8, 0x10#8, 0x21#8, 0x87#8] := by decide
/-- V-IDEM-1. -/
theorem witness_AcknowledgeThenResendIsIdempotent :
    let ps := byteInputs (frameBytes Config.standard [0x10#8, 0x20#8]) ++ PortInput.ofInstr .ack ::
      (byteInputs (frameBytes Config.standard [0x10#8, 0x20#8]) ++ [])
    stale.st = .awaitingSync ∧ framable stale.cfg [0x10#8, 0x20#8] ∧ { stale with pending := ps }.pending = ps := by
  decide
theorem witness_SyncByteIsOrdinaryInsideAFrame :
    accumulating.st ≠ .awaitingSync ∧ accumulating.st ≠ .syncByte1Seen ∧
      ∃ t, exec (.byte 0xAA#8) accumulating = .next t := ⟨by decide, by decide, _, rfl⟩
theorem witness_FrameLineExpandsToOneFrame :
    framable Config.standard [0x10#8, 0x20#8] ∧ ¬framable Config.standard [] ∧
      ¬framable Config.standard [0#8, 1#8, 2#8, 3#8, 4#8, 5#8, 6#8, 7#8, 8#8] ∧ 256 ≤ 256 := by decide
/-- A packet completes and the byte after it is kept; while ready, the first byte is kept. -/
theorem witness_DrainIsASequenceOfByteSteps :
    drain [0x87#8, 0xAA#8] pendingChecksum = .next (readyState, [0xAA#8]) ∧
      drain [0xAA#8] readyState = .next (readyState, [0xAA#8]) := ⟨rfl, rfl⟩
theorem witness_HiddenValuesStayHidden :
    State.reset.Inv ∧ stale.Inv ∧ State.reset.AgreeVisibly stale ∧ State.reset ≠ stale := by decide

end Sys2Proof.Tests
end

section
/-! PROOF. The general shape of a run: what every step keeps, every run keeps. -/

namespace Sys2Proof.Machine

/-- A predicate that every step keeps holds at the end of every run that starts in it. -/
theorem run_keeps {P : State → Prop} (hstep : ∀ {u v : State}, P u → step u = .next v → P v)
    {k : Nat} {s t : State} (hs : P s) (h : run k s = .next t) : P t := by
  induction k generalizing s with
  | zero =>
    obtain rfl : s = t := by simpa [run] using h
    exact hs
  | succ k ih =>
    cases hu : step s with
    | next u => exact ih (hstep hs hu) (run_succ_of_next k hu ▸ h)
    | fault r => simp [run, hu] at h
    | refused r => simp [run, hu] at h

/-- A step leaves the configuration alone, a reset step included (R9). -/
theorem step_cfg {s t : State} (h : step s = .next t) : t.cfg = s.cfg := by
  obtain ⟨inp, rest, -, ⟨-, rfl⟩ | ⟨-, i, -, hi⟩⟩ := step_cases h
  · simp
  · simpa using (exec_cfg_pending hi).1

/-- Settles O28: a step keeps the configuration the run began with, so the run does. -/
theorem configurationNeverChanges : Obligations.ConfigurationNeverChanges := by
  intro k s t h
  exact run_keeps (P := fun u => u.cfg = s.cfg) (fun hu hv => (step_cfg hv).trans hu) rfl h

end Sys2Proof.Machine
end

section
/-! PROOF. The state after a payload byte, field by field (R66). -/

namespace Sys2Proof.Machine

/-- The writes of a payload byte that was stored (R66): `State.acceptLength`'s counterpart for this row. -/
def State.acceptPayload (s : State) (b : Byte) : State :=
  (((s.setBuf (s.buf.write s.fill.toNat b)).setFill (s.fill + 1#8)).setChk (s.chk + b)).setSt s.afterPayloadByte

variable (s : State) (b : Byte)

@[simp] theorem State.acceptPayload_cfg : (s.acceptPayload b).cfg = s.cfg := rfl
@[simp] theorem State.acceptPayload_st : (s.acceptPayload b).st = s.afterPayloadByte := rfl
@[simp] theorem State.acceptPayload_expLen : (s.acceptPayload b).expLen = s.expLen := rfl
@[simp] theorem State.acceptPayload_fill : (s.acceptPayload b).fill = s.fill + 1#8 := rfl
@[simp] theorem State.acceptPayload_chk : (s.acceptPayload b).chk = s.chk + b := rfl
@[simp] theorem State.acceptPayload_buf : (s.acceptPayload b).buf = s.buf.write s.fill.toNat b := rfl
@[simp] theorem State.acceptPayload_pending : (s.acceptPayload b).pending = s.pending := rfl

@[simp] theorem State.acceptPayload_readCell_same : (s.acceptPayload b).readCell s.fill.toNat = some b :=
  Memory.read_write_same _ _ _

theorem State.acceptPayload_readCell_other {k : Nat} (h : k ≠ s.fill.toNat) :
    (s.acceptPayload b).readCell k = s.readCell k :=
  Memory.read_write_other _ _ h

/-- While accumulating, BYTE stores its byte when `fill` names a cell. -/
theorem execByte_eq_acceptPayload {s : State} (b : Byte) (hst : s.st = .accumulatingPayload)
    (hfill : s.fill.toNat < s.cfg.maxPayloadSize) : execByte b s = .next (s.acceptPayload b) := by
  rw [execByte_accumulatingPayload b hst]
  exact byteAccumulatingPayload_next_iff.2 ⟨hfill, rfl⟩

end Sys2Proof.Machine
end

section
/-! PROOF. The invariants of R27: each writer of the state keeps them, so every operation and every step does. -/

namespace Sys2Proof.Machine

/-- Outside a frame nothing links the three registers, so the buffer's form is all the invariants say
(R27 item 6). -/
theorem State.inv_of_not_inFrame {s : State} (hm : s.MemoryOk) (h : s.inFrame = false) : s.Inv := by
  have hst : ¬(s.st = .accumulatingPayload ∨ s.st = .checksumPending ∨ s.st = .payloadReady) := by
    simp [← State.inFrame_iff, h]
  refine ⟨hm, ?_, ⟨?_, ?_⟩, ?_, ?_⟩
  · simp [State.LengthsOk, h]
  · exact fun ha => absurd (.inl ha) hst
  · exact fun hr => absurd (.inr hr) hst
  · simp [State.PayloadOk, h]
  · simp [State.ChecksumOk, h]

/-- What the host will present is no part of the invariants. -/
theorem State.setPending_inv_iff {s : State} {ps : List PortInput} : (s.setPending ps).Inv ↔ s.Inv :=
  Iff.rfl

/-- Under the invariants `fill` names a cell while accumulating (R36). -/
theorem State.Inv.fill_lt_maxPayloadSize {s : State} (h : s.Inv) (hst : s.st = .accumulatingPayload) :
    s.fill.toNat < s.cfg.maxPayloadSize := by
  obtain ⟨-, hlen, ⟨hfill, -⟩, -, -⟩ := h
  exact Nat.lt_of_lt_of_le (hfill hst) (hlen (State.inFrame_iff.2 (.inl hst))).2.1

/-- A reset state meets the invariants (R99). -/
theorem State.applyReset_inv (s : State) : s.applyReset.Inv :=
  State.inv_of_not_inFrame ⟨List.Pairwise.nil, by simp⟩ rfl

/-- The sum of the first `n` cells does not see a write at or above `n`. -/
theorem cellSum_write_of_le (m : Memory) {i n : Nat} (b : Byte) (h : n ≤ i) :
    cellSum (m.write i b) n = cellSum m n := by
  induction n with
  | zero => rfl
  | succ n ih =>
    have hn : n ≠ i := by omega
    simp only [cellSum, ih (by omega), Memory.read_write_other m b hn]

/-- An accepted LEN byte starts a frame with no payload byte yet: the sum is empty and `chk` is its seed (R65). -/
theorem State.acceptLength_inv {s : State} {b : Byte} (hm : s.MemoryOk) (hb : lenAccepted s.cfg b = true) :
    (s.acceptLength b).Inv := by
  obtain ⟨-, hpos, hmax⟩ := expectedLength_bounds hb
  refine ⟨hm, fun _ => ⟨hpos, hmax, Nat.zero_le _⟩, ⟨fun _ => hpos, ?_⟩, ?_, fun _ => ?_⟩
  · simp
  · simp [State.PayloadOk]
  · simp only [State.acceptLength_chk, State.acceptLength_cfg, State.acceptLength_expLen, State.acceptLength_buf,
      State.acceptLength_fill, BitVec.toNat_zero, cellSum, seed, BitVec.sub_add_cancel, BitVec.add_zero]

/-- A stored payload byte extends the prefix of the buffer that `fill` and `chk` speak of by one cell (R66). -/
theorem State.acceptPayload_inv {s : State} (h : s.Inv) (b : Byte) (hst : s.st = .accumulatingPayload) :
    (s.acceptPayload b).Inv := by
  have hframe : s.inFrame = true := State.inFrame_iff.2 (.inl hst)
  have hcell := h.fill_lt_maxPayloadSize hst
  obtain ⟨⟨hwf, hlt⟩, hlen, ⟨hprog, -⟩, hpay, hchk⟩ := h
  obtain ⟨hpos, hmax, -⟩ := hlen hframe
  have hfill := hprog hst
  have hnext : (s.fill + 1#8).toNat = s.fill.toNat + 1 := by bv_omega
  refine ⟨⟨Memory.write_wf _ _ hwf, Memory.write_lt _ hcell hlt⟩, fun _ => ⟨hpos, hmax, ?_⟩, ⟨?_, ?_⟩, ?_, fun _ => ?_⟩
  · simp only [State.acceptPayload_fill, State.acceptPayload_expLen, hnext]
    exact hfill
  · intro hacc
    have hne : s.fill + 1#8 ≠ s.expLen := by
      intro heq
      simp [State.afterPayloadByte, heq] at hacc
    rw [State.acceptPayload_fill, State.acceptPayload_expLen]
    bv_omega
  · intro hdone
    refine Decidable.byContradiction fun hne => ?_
    simp only [State.acceptPayload_fill, State.acceptPayload_expLen] at hne
    simp [State.afterPayloadByte, hne, hst] at hdone
  · intro _ k hk
    simp only [State.acceptPayload_fill, hnext] at hk
    by_cases hkf : k = s.fill.toNat
    · simp [hkf]
    · rw [State.acceptPayload_readCell_other s b hkf]
      exact hpay hframe k (by omega)
  · simp only [State.acceptPayload_cfg, State.acceptPayload_expLen, State.acceptPayload_chk,
      State.acceptPayload_buf, State.acceptPayload_fill, hnext, hchk hframe, cellSum,
      cellSum_write_of_le _ _ (Nat.le_refl _), Memory.read_write_same, Option.getD_some]
    ac_rfl

/-- A matching checksum byte moves to PayloadReady, of which the invariants say what they say of ChecksumPending
(R67). -/
theorem State.setSt_payloadReady_inv {s : State} (h : s.Inv) (hst : s.st = .checksumPending) :
    (s.setSt .payloadReady).Inv := by
  have hframe : s.inFrame = true := State.inFrame_iff.2 (.inr (.inl hst))
  obtain ⟨hm, hlen, ⟨-, hdone⟩, hpay, hchk⟩ := h
  exact ⟨hm, fun _ => hlen hframe, ⟨by simp, fun _ => hdone (.inl hst)⟩, fun _ => hpay hframe,
    fun _ => hchk hframe⟩

/-- BYTE keeps the invariants, row by row of the state machine. -/
theorem execByte_keeps_inv {b : Byte} {s t : State} (hs : s.Inv) (h : execByte b s = .next t) : t.Inv := by
  obtain ⟨-, rfl⟩ | ⟨-, -, rfl⟩ | ⟨-, -, rfl⟩ | ⟨-, -, rfl⟩ | ⟨-, -, rfl⟩ | ⟨-, hb, rfl⟩ | ⟨-, -, rfl⟩ |
    ⟨hst, -, rfl⟩ | ⟨hst, -, rfl⟩ | ⟨-, -, rfl⟩ := execByte_cases h
  · exact hs
  · exact State.inv_of_not_inFrame hs.1 rfl
  · exact hs
  · exact State.inv_of_not_inFrame hs.1 rfl
  · exact State.inv_of_not_inFrame hs.1 rfl
  · exact State.acceptLength_inv hs.1 hb
  · exact State.inv_of_not_inFrame hs.1 rfl
  · exact State.acceptPayload_inv hs b hst
  · exact State.setSt_payloadReady_inv hs hst
  · exact State.inv_of_not_inFrame hs.1 rfl

/-- Every operation that answers a next state keeps the invariants. -/
theorem exec_keeps_inv {i : Instr} {s t : State} (hs : s.Inv) (h : exec i s = .next t) : t.Inv := by
  obtain ⟨-, rfl⟩ | ⟨-, rfl⟩ | ⟨b, -, hb⟩ := exec_cases h
  · exact hs
  · exact State.inv_of_not_inFrame hs.1 rfl
  · exact execByte_keeps_inv hs hb

/-- Every step that answers a next state keeps the invariants. -/
theorem step_keeps_inv {s t : State} (hs : s.Inv) (h : step s = .next t) : t.Inv := by
  obtain ⟨inp, rest, -, ⟨-, rfl⟩ | ⟨-, i, -, hi⟩⟩ := step_cases h
  · exact State.applyReset_inv _
  · exact exec_keeps_inv (State.setPending_inv_iff.2 hs) hi

end Sys2Proof.Machine
end

section
/-! PROOF. Progress: under the invariants nothing but the reserved word or an empty list of inputs stops the block. -/

namespace Sys2Proof.Machine

/-- A BYTE stops only where `fill` names no cell while accumulating (log 7). -/
theorem execByte_completes {s : State} (b : Byte)
    (h : s.st = .accumulatingPayload → s.fill.toNat < s.cfg.maxPayloadSize) : ∃ t, execByte b s = .next t := by
  cases hst : s.st with
  | awaitingSync =>
    rw [execByte_awaitingSync b hst, byteAwaitingSync]
    split <;> exact ⟨_, rfl⟩
  | syncByte1Seen =>
    rw [execByte_syncByte1Seen b hst, byteSyncByte1Seen]
    split <;> exact ⟨_, rfl⟩
  | lengthReceived =>
    rw [execByte_lengthReceived b hst, byteLengthReceived]
    split <;> exact ⟨_, rfl⟩
  | accumulatingPayload => exact ⟨_, execByte_eq_acceptPayload b hst (h hst)⟩
  | checksumPending =>
    rw [execByte_checksumPending b hst, byteChecksumPending]
    split <;> exact ⟨_, rfl⟩
  | payloadReady => exact ⟨s, execByte_payloadReady b hst⟩

/-- Under the invariants every operation completes (R94, R86). -/
theorem exec_completes {s : State} (i : Instr) (hs : s.Inv) : ∃ t, exec i s = .next t := by
  cases i with
  | nop => exact ⟨_, rfl⟩
  | byte b => exact execByte_completes b hs.fill_lt_maxPayloadSize
  | ack => exact ⟨_, rfl⟩

/-- A step that answers a next state takes one input off the list of those presented. -/
theorem step_pending {s t : State} {inp : PortInput} {rest : List PortInput} (hp : s.pending = inp :: rest)
    (h : step s = .next t) : t.pending = rest := by
  obtain ⟨inp', rest', hp', hcase⟩ := step_cases h
  obtain ⟨rfl, rfl⟩ : inp = inp' ∧ rest = rest' := by simpa [hp] using hp'
  obtain ⟨-, rfl⟩ | ⟨-, i, -, hi⟩ := hcase
  · simp
  · simpa using (exec_cfg_pending hi).2

/-- Under the invariants a step completes when a reset or an unreserved word is presented. -/
theorem step_completes {s : State} {inp : PortInput} {rest : List PortInput} (hs : s.Inv)
    (hp : s.pending = inp :: rest) (hinp : inp.rst = true ∨ decode inp.word ≠ .reservedOp) :
    ∃ t, step s = .next t := by
  rw [step_of_pending hp, runInput]
  split
  · exact ⟨_, rfl⟩
  next hrst =>
    cases hd : decode inp.word with
    | instr i => exact exec_completes i (State.setPending_inv_iff.2 hs)
    | reservedOp => exact absurd hd (hinp.resolve_left hrst)

/-- Settles O42, by induction on the inputs: each step completes, keeps the invariants and takes one input. -/
theorem blockNeverStops : Obligations.BlockNeverStops := by
  intro ops
  induction ops with
  | nil =>
    intro s rest hs hp _
    exact ⟨s, rfl, hs, hp⟩
  | cons inp ops ih =>
    intro s rest hs hp hops
    obtain ⟨hinp, hlater⟩ := List.forall_mem_cons.1 hops
    obtain ⟨u, hu⟩ := step_completes hs hp hinp
    rw [List.length_cons, run_succ_of_next _ hu]
    exact ih u rest (step_keeps_inv hs hu) (step_pending hp hu) hlater

end Sys2Proof.Machine
end

section
/-! PROOF. The invariants of R27 at reset and along every step. -/

namespace Sys2Proof.Machine

/-- Settles O40: each writer of the state keeps the invariants, so every step does. -/
theorem everyStepKeepsInvariants : Obligations.EveryStepKeepsInvariants :=
  fun _ _ hs h => step_keeps_inv hs h

/-- Settles O39: a reset state is the state a reset step leaves when it begins in that state. -/
theorem resetMeetsInvariants : Obligations.ResetMeetsInvariants :=
  ⟨fun c => State.applyReset_inv (State.resetOf c), State.applyReset_inv State.reset⟩

/-- Settles O36: the fields of the reset state (R29), of which `ready` and `len` are functions. -/
theorem resetStateHoldsStatedValues : Obligations.ResetStateHoldsStatedValues := by
  refine ⟨fun c => ⟨rfl, rfl, rfl, rfl, rfl, fun i => ?_, ?_, ?_⟩, rfl⟩
  · exact Memory.read_nil i
  · simp
  · simp [State.len_eq]

/-- Settles O52, state by state; the codes 6 and 7 fall to the decoder's last branch. -/
theorem stateCodesRoundTrip : Obligations.StateCodesRoundTrip := by
  refine ⟨fun x => ?_, rfl, rfl, rfl⟩
  cases x <;> decide

end Sys2Proof.Machine
end

section
/-! PROOF. Who writes which register (R15), and when `ready` and `take` are 1 (R23, R25). -/

namespace Sys2Proof.Machine

/-- A payload byte goes to ChecksumPending or stays while accumulating (R66). -/
theorem State.afterPayloadByte_cases {s : State} (hst : s.st = .accumulatingPayload) :
    s.afterPayloadByte = .checksumPending ∨ s.afterPayloadByte = .accumulatingPayload := by
  unfold State.afterPayloadByte
  split
  · exact .inl rfl
  · exact .inr hst

/-- BYTE writes the three registers where it accepts a LEN byte, `fill` and `chk` where it stores a payload byte, and
none of them anywhere else (R18 to R20). -/
theorem execByte_registers {b : Byte} {s t : State} (h : execByte b s = .next t) :
    (s.st = .lengthReceived ∧ t.st = .accumulatingPayload) ∨
      (s.st = .accumulatingPayload ∧ t.expLen = s.expLen) ∨
      (t.expLen = s.expLen ∧ t.fill = s.fill ∧ t.chk = s.chk) := by
  obtain ⟨-, rfl⟩ | ⟨-, -, rfl⟩ | ⟨-, -, rfl⟩ | ⟨-, -, rfl⟩ | ⟨-, -, rfl⟩ | ⟨hst, -, rfl⟩ | ⟨-, -, rfl⟩ |
    ⟨hst, -, rfl⟩ | ⟨-, -, rfl⟩ | ⟨-, -, rfl⟩ := execByte_cases h
  · simp
  · simp
  · simp
  · simp
  · simp
  · exact .inl ⟨hst, rfl⟩
  · simp
  · exact .inr (.inl ⟨hst, rfl⟩)
  · simp
  · simp

/-- BYTE in PayloadReady changes nothing (R69). -/
theorem execByte_next_of_payloadReady {b : Byte} {s t : State} (h : execByte b s = .next t)
    (hst : s.st = .payloadReady) : t = s := by
  simpa [execByte_payloadReady b hst, eq_comm] using h

/-- BYTE enters PayloadReady only from ChecksumPending and only with a byte equal to `chk` (R67). -/
theorem execByte_enters_payloadReady {b : Byte} {s t : State} (h : execByte b s = .next t)
    (hs : s.st ≠ .payloadReady) (ht : t.st = .payloadReady) : s.st = .checksumPending ∧ b = s.chk := by
  obtain ⟨hst, -⟩ | ⟨-, -, rfl⟩ | ⟨-, -, rfl⟩ | ⟨-, -, rfl⟩ | ⟨-, -, rfl⟩ | ⟨-, -, rfl⟩ | ⟨-, -, rfl⟩ |
    ⟨hst, -, rfl⟩ | ⟨hst, hb, -⟩ | ⟨-, -, rfl⟩ := execByte_cases h
  · exact absurd hst hs
  · simp at ht
  · exact absurd ht hs
  · simp at ht
  · simp at ht
  · simp at ht
  · simp at ht
  · rw [State.setSt_st] at ht
    rcases State.afterPayloadByte_cases hst with ha | ha <;> simp [ha] at ht
  · exact ⟨hst, hb⟩
  · simp at ht

/-- Settles O26: NOP writes nothing, ACK writes `exp_len` and `st`, and BYTE's writes are told row by row. -/
theorem registersChangeOnlyByTheirWriters : Obligations.RegistersChangeOnlyByTheirWriters := by
  intro s t i h
  obtain ⟨hcfg, hpending⟩ := exec_cfg_pending h
  refine ⟨hcfg, hpending, ?_⟩
  obtain ⟨-, rfl⟩ | ⟨rfl, rfl⟩ | ⟨b, rfl, hb⟩ := exec_cases h
  · simp
  · simp
  · refine ⟨fun hne => ?_, fun hne => ⟨?_, b, rfl⟩, fun hne => ⟨by simp, fun hst => ?_⟩⟩
    · obtain ⟨hst, ht⟩ | ⟨-, heq⟩ | ⟨heq, -, -⟩ := execByte_registers hb
      · exact .inr ⟨hst, ht, b, rfl⟩
      · exact absurd heq hne
      · exact absurd heq hne
    · obtain hlen | ⟨hst, -⟩ | ⟨-, hfill, hchk⟩ := execByte_registers hb
      · exact .inl hlen
      · exact .inr hst
      · simp [hfill, hchk] at hne
    · exact absurd (congrArg State.st (execByte_next_of_payloadReady hb hst)) hne

/-- Settles O32: a reset and ACK leave `ready` 0, NOP keeps it, and BYTE sets it only in one row of the state
machine and never clears it. -/
theorem readySetAndClearedOnlyAsStated : Obligations.ReadySetAndClearedOnlyAsStated := by
  refine ⟨fun s => State.ready_iff, fun s t h => ?_⟩
  obtain ⟨inp, rest, hp, hcase⟩ := step_cases h
  refine ⟨inp, rest, hp, ?_⟩
  simp only [State.ready_iff, State.ready_eq_false_iff]
  obtain ⟨hrst, rfl⟩ | ⟨hrst, i, hi, hexec⟩ := hcase
  · simp [hrst]
  obtain ⟨-, rfl⟩ | ⟨rfl, rfl⟩ | ⟨b, rfl, hb⟩ := exec_cases hexec
  · exact ⟨fun hs ht => absurd ht hs, fun hs ht => absurd hs ht⟩
  · exact ⟨by simp, fun _ _ => .inr hi⟩
  · refine ⟨fun hs ht => ?_, fun hs ht => ?_⟩
    · obtain ⟨hst, rfl⟩ := execByte_enters_payloadReady hb hs ht
      exact ⟨hrst, hst, hi⟩
    · exact absurd (execByte_next_of_payloadReady hb hs ▸ hs) ht

/-- `take` is 1 exactly for a BYTE presented outside PayloadReady with reset not asserted (R25). -/
theorem take_iff {inp : PortInput} {s : State} :
    take inp s = true ↔ inp.rst = false ∧ (∃ b, decode inp.word = .instr (.byte b)) ∧ s.st ≠ .payloadReady := by
  cases hr : inp.rst with
  | true => simp [take, hr]
  | false =>
    cases hd : decode inp.word with
    | reservedOp => simp [take, hr, hd]
    | instr i => cases i <;> simp [take, hr, hd, State.takes]

/-- With reset not asserted the input's operation is run. -/
theorem runInput_of_presents {inp : PortInput} {i : Instr} (s : State) (h : inp.presents i) :
    runInput inp s = exec i s := by
  obtain ⟨hrst, hi⟩ := h
  simp [runInput, hrst, hi]

/-- Settles O31: a BYTE not taken is a BYTE in PayloadReady, which changes nothing. -/
theorem takeExactlyWhenByteIsConsumed : Obligations.TakeExactlyWhenByteIsConsumed := by
  refine fun s inp => ⟨take_iff, fun b hb htake => ?_⟩
  have hst : s.st = .payloadReady := by
    refine Decidable.byContradiction fun hst => ?_
    simp [take_iff.2 ⟨hb.1, ⟨b, hb.2⟩, hst⟩] at htake
  rw [runInput_of_presents s hb]
  exact execByte_payloadReady b hst

end Sys2Proof.Machine
end

section
/-! PROOF. Hidden values (R28): states that agree visibly stay so under every operation and give the same
outputs, so no run tells them apart. -/

namespace Sys2Proof.Machine

/-- Outside a frame only the configuration, the Decoder State and what is presented are visible. -/
theorem State.agreeVisibly_of_not_inFrame {s t : State} (hcfg : s.cfg = t.cfg) (hst : s.st = t.st)
    (hpending : s.pending = t.pending) (h : s.inFrame = false) : s.AgreeVisibly t :=
  ⟨hcfg, hst, hpending, by simp [h]⟩

theorem State.AgreeVisibly.pending_eq {s t : State} (h : s.AgreeVisibly t) : s.pending = t.pending := by
  obtain ⟨-, -, hpending, -⟩ := h
  exact hpending

theorem State.AgreeVisibly.setPending {s t : State} (h : s.AgreeVisibly t) (ps : List PortInput) :
    (s.setPending ps).AgreeVisibly (t.setPending ps) := by
  obtain ⟨hcfg, hst, -, hframe⟩ := h
  exact ⟨hcfg, hst, rfl, hframe⟩

/-- Leaving for a state outside a frame makes the three registers and the buffer hidden. -/
theorem State.AgreeVisibly.setSt_of_not_inFrame {s t : State} (h : s.AgreeVisibly t) {x : DecoderState}
    (hx : (s.setSt x).inFrame = false) : (s.setSt x).AgreeVisibly (t.setSt x) := by
  obtain ⟨hcfg, -, hpending, -⟩ := h
  exact State.agreeVisibly_of_not_inFrame hcfg rfl hpending hx

theorem State.AgreeVisibly.resync {s t : State} (h : s.AgreeVisibly t) : s.resync.AgreeVisibly t.resync :=
  h.setSt_of_not_inFrame rfl

theorem State.AgreeVisibly.applyReset {s t : State} (h : s.AgreeVisibly t) :
    s.applyReset.AgreeVisibly t.applyReset := by
  obtain ⟨hcfg, -, hpending, -⟩ := h
  exact State.agreeVisibly_of_not_inFrame hcfg rfl hpending rfl

/-- An accepted LEN byte overwrites the three stale registers, and no cell is below the new `fill` (R65). -/
theorem State.AgreeVisibly.acceptLength {s t : State} (h : s.AgreeVisibly t) (b : Byte) :
    (s.acceptLength b).AgreeVisibly (t.acceptLength b) := by
  obtain ⟨hcfg, -, hpending, -⟩ := h
  exact ⟨hcfg, rfl, hpending, fun _ => ⟨rfl, rfl, by simp [hcfg], by simp⟩⟩

/-- A stored payload byte makes one more cell visible, and it holds the same byte in both states (R66). -/
theorem State.AgreeVisibly.acceptPayload {s t : State} (h : s.AgreeVisibly t) (b : Byte)
    (hst : s.st = .accumulatingPayload) (hfill : s.fill.toNat < s.cfg.maxPayloadSize) :
    (s.acceptPayload b).AgreeVisibly (t.acceptPayload b) := by
  obtain ⟨hcfg, hst', hpending, hframe⟩ := h
  obtain ⟨hexpLen, hfill', hchk, hcells⟩ := hframe (State.inFrame_iff.2 (.inl hst))
  refine ⟨hcfg, ?_, hpending, fun _ => ⟨hexpLen, ?_, ?_, fun k hk => ?_⟩⟩
  · simp [State.afterPayloadByte, hst', hexpLen, hfill']
  · simp [hfill']
  · simp [hchk]
  · by_cases hkf : k = s.fill.toNat
    · rw [hkf, State.acceptPayload_readCell_same, hfill', State.acceptPayload_readCell_same]
    · have hlt : k < s.fill.toNat := by
        have := Config.maxPayloadSize_bounds s.cfg
        rw [State.acceptPayload_fill] at hk
        bv_omega
      rw [State.acceptPayload_readCell_other s b hkf, State.acceptPayload_readCell_other t b (hfill' ▸ hkf)]
      exact hcells k hlt

/-- A matching checksum byte shows what was visible in ChecksumPending (R67). -/
theorem State.AgreeVisibly.setSt_payloadReady {s t : State} (h : s.AgreeVisibly t)
    (hst : s.st = .checksumPending) : (s.setSt .payloadReady).AgreeVisibly (t.setSt .payloadReady) := by
  obtain ⟨hcfg, -, hpending, hframe⟩ := h
  exact ⟨hcfg, rfl, hpending, fun _ => hframe (State.inFrame_iff.2 (.inr (.inl hst)))⟩

/-- The ways two steps end alike. -/
theorem EndAlike.cases {o p : Host.Outcome State Fault Refusal} (h : EndAlike o p) :
    (∃ u v, o = .next u ∧ p = .next v ∧ u.AgreeVisibly v) ∨ (∃ r, o = .fault r ∧ p = .fault r) ∨
      ∃ r, o = .refused r ∧ p = .refused r := by
  cases o with
  | next u =>
    cases p with
    | next v => exact .inl ⟨u, v, rfl, rfl, h⟩
    | fault r => exact h.elim
    | refused r => exact h.elim
  | fault q =>
    cases p with
    | next v => exact h.elim
    | fault r => exact .inr (.inl ⟨r, congrArg _ h, rfl⟩)
    | refused r => exact h.elim
  | refused q =>
    cases p with
    | next v => exact h.elim
    | fault r => exact h.elim
    | refused r => exact .inr (.inr ⟨r, congrArg _ h, rfl⟩)

/-- BYTE takes the same branch of the same row in two states that agree visibly. -/
theorem execByte_endAlike {s t : State} (b : Byte) (hs : s.Inv) (h : s.AgreeVisibly t) :
    EndAlike (execByte b s) (execByte b t) := by
  obtain ⟨hcfg, hst, -, hframe⟩ := id h
  cases hx : s.st with
  | awaitingSync =>
    rw [execByte_awaitingSync b hx, execByte_awaitingSync b (hst ▸ hx)]
    by_cases hb : b = s.cfg.syncByte
    · rw [byteAwaitingSync_pos hb, byteAwaitingSync_pos (hcfg ▸ hb)]
      exact h.setSt_of_not_inFrame rfl
    · rw [byteAwaitingSync_neg hb, byteAwaitingSync_neg (hcfg ▸ hb)]
      exact h
  | syncByte1Seen =>
    rw [execByte_syncByte1Seen b hx, execByte_syncByte1Seen b (hst ▸ hx)]
    by_cases hb : b = s.cfg.syncByte
    · rw [byteSyncByte1Seen_pos hb, byteSyncByte1Seen_pos (hcfg ▸ hb)]
      exact h.setSt_of_not_inFrame rfl
    · rw [byteSyncByte1Seen_neg hb, byteSyncByte1Seen_neg (hcfg ▸ hb)]
      exact h.resync
  | lengthReceived =>
    rw [execByte_lengthReceived b hx, execByte_lengthReceived b (hst ▸ hx)]
    by_cases hb : lenAccepted s.cfg b = true
    · rw [byteLengthReceived_pos hb, byteLengthReceived_pos (hcfg ▸ hb)]
      exact h.acceptLength b
    · rw [byteLengthReceived_neg hb, byteLengthReceived_neg (hcfg ▸ hb)]
      exact h.resync
  | accumulatingPayload =>
    obtain ⟨-, hfill, -, -⟩ := hframe (State.inFrame_iff.2 (.inl hx))
    have hlt := hs.fill_lt_maxPayloadSize hx
    rw [execByte_eq_acceptPayload b hx hlt, execByte_eq_acceptPayload b (hst ▸ hx) (hcfg ▸ hfill ▸ hlt)]
    exact h.acceptPayload b hx hlt
  | checksumPending =>
    obtain ⟨-, -, hchk, -⟩ := hframe (State.inFrame_iff.2 (.inr (.inl hx)))
    rw [execByte_checksumPending b hx, execByte_checksumPending b (hst ▸ hx)]
    by_cases hb : b = s.chk
    · rw [byteChecksumPending_pos hb, byteChecksumPending_pos (hchk ▸ hb)]
      exact h.setSt_payloadReady hx
    · rw [byteChecksumPending_neg hb, byteChecksumPending_neg (hchk ▸ hb)]
      exact h.resync
  | payloadReady =>
    rw [execByte_payloadReady b hx, execByte_payloadReady b (hst ▸ hx)]
    exact h

/-- Every operation ends alike in two states that agree visibly. -/
theorem exec_endAlike {s t : State} (i : Instr) (hs : s.Inv) (h : s.AgreeVisibly t) :
    EndAlike (exec i s) (exec i t) := by
  cases i with
  | nop => exact h
  | byte b => exact execByte_endAlike b hs h
  | ack =>
    obtain ⟨hcfg, -, hpending, -⟩ := h
    exact State.agreeVisibly_of_not_inFrame hcfg rfl hpending rfl

/-- Every step ends alike in two states that agree visibly. -/
theorem step_endAlike {s t : State} (hs : s.Inv) (h : s.AgreeVisibly t) : EndAlike (step s) (step t) := by
  have hpending := h.pending_eq
  cases hp : s.pending with
  | nil => simp [step, hp, ← hpending, EndAlike]
  | cons inp rest =>
    rw [step_of_pending hp, step_of_pending (hpending ▸ hp), runInput, runInput]
    split
    · exact (h.setPending rest).applyReset
    · cases decode inp.word with
      | instr i => exact exec_endAlike i (State.setPending_inv_iff.2 hs) (h.setPending rest)
      | reservedOp => exact rfl

theorem State.AgreeVisibly.ready_eq {s t : State} (h : s.AgreeVisibly t) : s.ready = t.ready := by
  obtain ⟨-, hst, -, -⟩ := h
  rw [State.ready, State.ready, hst]

/-- `len` shows `exp_len` only in PayloadReady, where it is the frame's (R24). -/
theorem State.AgreeVisibly.len_eq {s t : State} (h : s.AgreeVisibly t) : s.len = t.len := by
  obtain ⟨-, hst, -, hframe⟩ := h
  rw [State.len_eq, State.len_eq, ← hst]
  split
  next hready => exact (hframe (State.inFrame_iff.2 (.inr (.inr hready)))).1
  · rfl

/-- The read port shows cells below `exp_len` in PayloadReady only, and there `fill` is `exp_len` (R81, R27). -/
theorem State.AgreeVisibly.rdData_eq {s t : State} (h : s.AgreeVisibly t) (hs : s.Inv) (a : Byte) :
    s.rdData a = t.rdData a := by
  have hready := h.ready_eq
  obtain ⟨-, -, -, hframe⟩ := h
  obtain ⟨-, -, ⟨-, hdone⟩, -, -⟩ := hs
  cases hr : s.ready with
  | false => simp [State.rdData, State.readDefined, ← hready, hr]
  | true =>
    have hst := State.ready_iff.1 hr
    obtain ⟨hexpLen, -, -, hcells⟩ := hframe (State.inFrame_iff.2 (.inr (.inr hst)))
    simp only [State.rdData, State.readDefined, ← hready, hr, ← hexpLen, Bool.true_and, decide_eq_true_eq]
    split
    next ha => exact hcells _ (hdone (.inr hst) ▸ ha)
    · rfl

theorem State.AgreeVisibly.take_eq {s t : State} (h : s.AgreeVisibly t) (inp : PortInput) :
    take inp s = take inp t := by
  obtain ⟨-, hst, -, -⟩ := h
  rw [Bool.eq_iff_iff, take_iff, take_iff, hst]

/-- A step between states that agree visibly gives the same four outputs. -/
theorem State.AgreeVisibly.outputs_eq {s t u v : State} (h : s.AgreeVisibly t) (hs : s.Inv)
    (h' : u.AgreeVisibly v) (inp : PortInput) : outputs inp s u = outputs inp t v := by
  simp only [outputs, h.take_eq, h.rdData_eq hs, h'.ready_eq, h'.len_eq]

/-- No run tells apart two states that agree visibly. -/
theorem State.AgreeVisibly.observeRun_eq {s t : State} (k : Nat) (hs : s.Inv) (h : s.AgreeVisibly t) :
    observeRun k s = observeRun k t := by
  induction k generalizing s t with
  | zero => rfl
  | succ k ih =>
    rw [observeRun, observeRun, ← h.pending_eq]
    cases s.pending with
    | nil => rfl
    | cons inp rest =>
      obtain ⟨u, v, hu, hv, huv⟩ | ⟨r, hu, hv⟩ | ⟨r, hu, hv⟩ := (step_endAlike hs h).cases
      · simp only [hu, hv, h.outputs_eq hs huv inp, ih (step_keeps_inv hs hu) huv]
      · simp only [hu, hv]
      · simp only [hu, hv]

/-- A state in AwaitingSync agrees visibly with its reset state: the registers and the buffer are hidden there. -/
theorem State.agreeVisibly_applyReset {s : State} (hst : s.st = .awaitingSync) : s.AgreeVisibly s.applyReset :=
  State.agreeVisibly_of_not_inFrame rfl hst rfl (by simp [State.inFrame, hst])

/-- Settles O50: every operation takes the same branch in both states and writes hidden values only to hidden ones. -/
theorem hiddenValuesStayHiddenInOneStep : Obligations.HiddenValuesStayHiddenInOneStep :=
  fun _ _ hs _ h => ⟨step_endAlike hs h, h.observeRun_eq 1 hs⟩

/-- Settles O51, by induction on the length of the run: each step gives the same outputs and ends alike. -/
theorem hiddenValuesNeverReachAnOutput : Obligations.HiddenValuesNeverReachAnOutput :=
  fun k _ _ hs _ h => h.observeRun_eq k hs

/-- Settles O38: in AwaitingSync the state and its reset state differ in hidden values only. -/
theorem resetRegisterValuesAreUnobservable : Obligations.ResetRegisterValuesAreUnobservable :=
  fun _ k hs hst => (State.agreeVisibly_applyReset hst).observeRun_eq k hs

end Sys2Proof.Machine
end

section
/-! PROOF. The buffer has one writer (R31), and a byte for which `fill` names no cell has nowhere to go (R36). -/

namespace Sys2Proof.Machine

/-- Settles O18: in AccumulatingPayload the byte's row is the store, which faults at an index that names no cell. -/
theorem storeOutsideTheBufferFaults : Obligations.StoreOutsideTheBufferFaults := by
  intro s b hst hfill
  calc exec (.byte b) s
    _ = byteAccumulatingPayload b s := execByte_accumulatingPayload b hst
    _ = .fault .noSuchCell := byteAccumulatingPayload_fault (Nat.not_lt.2 hfill)

/-- Only BYTE in AccumulatingPayload computes a store address, and it is `fill` (R31). -/
theorem State.storeAddress_eq (s : State) (i : Instr) :
    s.storeAddress i = if s.st = .accumulatingPayload ∧ ∃ b, i = .byte b then some s.fill.toNat else none := by
  cases i with
  | nop => simp [State.storeAddress]
  | byte b => simp [State.storeAddress, State.storeIndex]
  | ack => simp [State.storeAddress]

/-- A payload byte is written to the cell `fill` names (R66). -/
theorem execByte_buf_of_accumulatingPayload {b : Byte} {s t : State} (h : execByte b s = .next t)
    (hst : s.st = .accumulatingPayload) : t.buf = s.buf.write s.fill.toNat b := by
  rw [execByte_accumulatingPayload b hst, byteAccumulatingPayload_next_iff] at h
  obtain ⟨-, rfl⟩ := h
  rfl

/-- No other row of the state machine writes the buffer (R31). -/
theorem execByte_buf_of_not_accumulatingPayload {b : Byte} {s t : State} (h : execByte b s = .next t)
    (hst : s.st ≠ .accumulatingPayload) : t.buf = s.buf := by
  obtain ⟨-, rfl⟩ | ⟨-, -, rfl⟩ | ⟨-, -, rfl⟩ | ⟨-, -, rfl⟩ | ⟨-, -, rfl⟩ | ⟨-, -, rfl⟩ | ⟨-, -, rfl⟩ |
    ⟨hacc, -⟩ | ⟨-, -, rfl⟩ | ⟨-, -, rfl⟩ := execByte_cases h
  · rfl
  · rfl
  · rfl
  · rfl
  · rfl
  · rfl
  · rfl
  · exact absurd hacc hst
  · rfl
  · rfl

/-- What an operation does to the buffer: it computes no address and leaves the buffer alone, or it is BYTE and
writes its byte to the cell at the address. -/
theorem exec_buf_cases {i : Instr} {s t : State} (h : exec i s = .next t) :
    (s.storeAddress i = none ∧ t.buf = s.buf) ∨
      ∃ b, i = .byte b ∧ s.storeAddress i = some s.fill.toNat ∧ t.buf = s.buf.write s.fill.toNat b := by
  obtain ⟨rfl, rfl⟩ | ⟨rfl, rfl⟩ | ⟨b, rfl, hb⟩ := exec_cases h
  · exact .inl ⟨rfl, rfl⟩
  · exact .inl ⟨rfl, rfl⟩
  · by_cases hst : s.st = .accumulatingPayload
    · exact .inr ⟨b, rfl, by simp [State.storeAddress_eq, hst], execByte_buf_of_accumulatingPayload hb hst⟩
    · exact .inl ⟨by simp [State.storeAddress_eq, hst], execByte_buf_of_not_accumulatingPayload hb hst⟩

/-- Settles O25: the buffer after the operation is the buffer before it, or that buffer with one cell written. -/
theorem onlyTheCellAtFillIsWritten : Obligations.OnlyTheCellAtFillIsWritten := by
  intro s t i h
  refine ⟨s.storeAddress_eq i, ?_⟩
  obtain ⟨haddr, hbuf⟩ | ⟨b, rfl, haddr, hbuf⟩ := exec_buf_cases h
  · simp [haddr, State.readCell, hbuf]
  · simp only [haddr, State.readCell, hbuf]
    refine ⟨fun k hk => ?_, fun k c hc hk => ?_, by simp⟩
    · exact Memory.read_write_other _ _ fun hkf => hk (congrArg some hkf.symm)
    · cases hc
      cases hk
      exact Memory.read_write_same _ _ _

end Sys2Proof.Machine
end

section
/-! PROOF. Operations presented as their words run in order (R38). -/

namespace Sys2Proof.Machine

/-- The input the host presents for an operation decodes to it (R46 to R48). -/
theorem PortInput.ofInstr_presents (i : Instr) : (PortInput.ofInstr i).presents i := by
  refine ⟨rfl, ?_⟩
  cases i with
  | nop => simp [PortInput.ofInstr, encode, decode]
  | byte b => simp [PortInput.ofInstr, encode, decode]
  | ack => simp [PortInput.ofInstr, encode, decode]

/-- Of two lists given in turn to be presented the later one stands. -/
@[simp] theorem State.setPending_setPending (s : State) (ps qs : List PortInput) :
    (s.setPending ps).setPending qs = s.setPending qs := rfl

/-- A step presented with an operation is its meaning, the input taken off the list (R56). -/
theorem step_of_presents {s : State} {inp : PortInput} {rest : List PortInput} {i : Instr}
    (hp : s.pending = inp :: rest) (hi : inp.presents i) : step s = exec i (s.setPending rest) := by
  rw [step_of_pending hp, runInput_of_presents _ hi]

/-- An operation presented as its word leads where its meaning leads, with what follows still to be presented. -/
theorem step_presenting_of_exec {i : Instr} {s t : State} (ps : List PortInput) (h : exec i s = .next t) :
    step (s.setPending (PortInput.ofInstr i :: ps)) = .next (t.setPending ps) := by
  rw [step_of_presents (State.setPending_pending _ _) (PortInput.ofInstr_presents i), State.setPending_setPending,
    exec_setPending, h, mapNext]

/-- A list of meanings answers a next state when its first does and the rest do from there. -/
theorem execAll_cons_next_iff {i : Instr} {is : List Instr} {s t : State} :
    execAll (i :: is) s = .next t ↔ ∃ u, exec i s = .next u ∧ execAll is u = .next t := by
  cases h : exec i s <;> simp [execAll, h]

/-- No list of meanings touches what the host will present. -/
theorem execAll_pending {is : List Instr} {s t : State} (h : execAll is s = .next t) : t.pending = s.pending := by
  induction is generalizing s with
  | nil =>
    obtain rfl : s = t := by simpa [execAll] using h
    rfl
  | cons i is ih =>
    obtain ⟨u, hu, ht⟩ := execAll_cons_next_iff.1 h
    exact (ih ht).trans (exec_cfg_pending hu).2

/-- Presented as inputs, a list of operations runs to where their meanings lead, with what follows still to be
presented. -/
theorem run_presenting_of_execAll {is : List Instr} {s t : State} (rest : List PortInput)
    (h : execAll is s = .next t) :
    run is.length (s.setPending (is.map PortInput.ofInstr ++ rest)) = .next (t.setPending rest) := by
  induction is generalizing s with
  | nil =>
    obtain rfl : s = t := by simpa [execAll] using h
    rfl
  | cons i is ih =>
    obtain ⟨u, hu, ht⟩ := execAll_cons_next_iff.1 h
    rw [List.map_cons, List.cons_append, List.length_cons, run_succ_of_next _ (step_presenting_of_exec _ hu)]
    exact ih ht

/-- Settles O6: the run leads to `t` with `rest` presented next, which is `t` itself as no meaning touches the list. -/
theorem presentedOperationsRunInOrder : Obligations.PresentedOperationsRunInOrder := by
  rintro is s t rest rfl h
  have hpending := execAll_pending h
  refine ⟨?_, hpending⟩
  rw [run_presenting_of_execAll _ h, ← hpending, State.setPending_self]

end Sys2Proof.Machine
end

section
/-! PROOF. The read window: in PayloadReady a poll changes nothing (R39). -/

namespace Sys2Proof.Machine

/-- A poll in PayloadReady, NOP or BYTE, only comes off the list of inputs (R57, R69). -/
theorem step_poll_of_payloadReady {s : State} {inp : PortInput} {rest : List PortInput}
    (hst : s.st = .payloadReady) (hp : s.pending = inp :: rest) (hpoll : inp.isPoll) :
    step s = .next (s.setPending rest) := by
  obtain hnop | ⟨b, hb⟩ := hpoll
  · rw [step_of_presents hp hnop]
    rfl
  · rw [step_of_presents hp hb]
    exact execByte_payloadReady b hst

/-- The outputs of a step in PayloadReady that changes nothing: no byte taken, and the payload exposed (R24, R35). -/
theorem outputs_of_payloadReady {s : State} (inp : PortInput) (rest : List PortInput)
    (hst : s.st = .payloadReady) :
    outputs inp s (s.setPending rest) = ⟨false, true, s.expLen, s.rdData inp.rdAddr⟩ := by
  have htake : take inp s = false := by
    rw [← Bool.not_eq_true, take_iff]
    exact fun ⟨_, _, hne⟩ => hne hst
  have hready : (s.setPending rest).ready = true := State.ready_iff.2 hst
  simp [outputs, htake, hready, State.len]

/-- The observation of a run whose first step completes. -/
theorem observeRun_succ_of_next {s t : State} {inp : PortInput} {rest : List PortInput} (k : Nat)
    (hp : s.pending = inp :: rest) (h : step s = .next t) :
    observeRun (k + 1) s = outputs inp s t :: observeRun k t := by
  simp [observeRun, hp, h]

/-- Settles O35, by induction on the polls: each leaves the state as it was but for the list of inputs, which no
output goes by. -/
theorem payloadIsStableUntilAcknowledged : Obligations.PayloadIsStableUntilAcknowledged := by
  intro ops
  induction ops with
  | nil =>
    rintro s rest - - rfl
    exact ⟨rfl, rfl⟩
  | cons inp ops ih =>
    intro s rest hst hpolls hp
    obtain ⟨hinp, hlater⟩ := List.forall_mem_cons.1 hpolls
    have hstep := step_poll_of_payloadReady hst hp hinp
    obtain ⟨hrun, hobserve⟩ := ih (s.setPending (ops ++ rest)) rest hst hlater rfl
    rw [List.length_cons, run_succ_of_next _ hstep, observeRun_succ_of_next _ hp hstep,
      outputs_of_payloadReady inp _ hst]
    exact ⟨hrun, congrArg _ hobserve⟩

end Sys2Proof.Machine
end

section
/-! PROOF. The operation word: one row for each value of `w[9:8]` (R45 to R51). -/

namespace Sys2Proof

/-- A word has these two fields exactly when it is the word of them. -/
theorem eq_opWord_iff {w : OpWord} {op : BitVec 2} {din : Byte} :
    w = opWord op din ↔ opField w = op ∧ dinField w = din := by
  constructor
  · rintro rfl
    simp
  · rintro ⟨rfl, rfl⟩
    exact (opWord_fields w).symm

/-- The mask of the opcode table keeps `op` and clears `din` (R51). -/
theorem and_mask_eq (w : OpWord) : w &&& 0x300#10 = opWord (opField w) 0x00#8 :=
  calc w &&& 0x300#10
    _ = opWord (opField w) (dinField w) &&& (0b11#2 ++ 0x00#8 : OpWord) := by rw [opWord_fields]; rfl
    _ = (opField w &&& BitVec.allOnes 2) ++ (dinField w &&& 0#8) := BitVec.and_append
    _ = opWord (opField w) 0x00#8 := by rw [BitVec.and_allOnes, BitVec.and_zero, opWord]

/-- A masked word equals a row's match exactly when `op` is the row's (R51). -/
theorem and_mask_eq_opWord_iff {w : OpWord} {op : BitVec 2} :
    w &&& 0x300#10 = opWord op 0x00#8 ↔ opField w = op := by
  simp [and_mask_eq, eq_opWord_iff]

/-- `din` as a number is the word modulo 256 (R45). -/
theorem dinField_toNat (w : OpWord) : (dinField w).toNat = w.toNat % 256 := by
  rw [dinField, BitVec.extractLsb'_toNat, Nat.shiftRight_zero]

/-- What the decoder makes of a word, row by row of the opcode table (R45 to R49). -/
theorem decode_cases (w : OpWord) :
    (opField w = 0b00#2 ∧ decode w = .instr .nop) ∨
    (opField w = 0b01#2 ∧ decode w = .instr (.byte (dinField w))) ∨
    (opField w = 0b10#2 ∧ decode w = .instr .ack) ∨
    (opField w = 0b11#2 ∧ decode w = .reservedOp) := by
  have hop : ∀ op : BitVec 2, op = 0b00#2 ∨ op = 0b01#2 ∨ op = 0b10#2 ∨ op = 0b11#2 := by decide
  rcases hop (opField w) with h | h | h | h <;> simp [decode, h]

/-- Which words decode to NOP (R46). -/
theorem decode_eq_nop_iff {w : OpWord} : decode w = .instr .nop ↔ opField w = 0b00#2 := by
  rcases decode_cases w with h | h | h | h <;> simp [h]

/-- Which words decode to BYTE, and with which operand (R47). -/
theorem decode_eq_byte_iff {w : OpWord} {b : Byte} :
    decode w = .instr (.byte b) ↔ opField w = 0b01#2 ∧ dinField w = b := by
  rcases decode_cases w with h | h | h | h <;> simp [h]

/-- Which words decode to ACK (R48). -/
theorem decode_eq_ack_iff {w : OpWord} : decode w = .instr .ack ↔ opField w = 0b10#2 := by
  rcases decode_cases w with h | h | h | h <;> simp [h]

/-- Which words are reserved (R49). -/
theorem decode_eq_reservedOp_iff {w : OpWord} : decode w = .reservedOp ↔ opField w = 0b11#2 := by
  rcases decode_cases w with h | h | h | h <;> simp [h]

/-- The opcode table's numbering of a word, in its two bytes, reaches the port as the word itself (R45, log 15). -/
theorem tableWord_toNat (w : OpWord) : tableWord 16 w.toNat = w := by
  have hw : w.toNat < 2 ^ 16 := Nat.lt_trans w.isLt (by decide)
  rw [tableWord, Nat.mod_eq_of_lt hw, BitVec.ofNat_toNat, BitVec.setWidth_eq]

/-- The decoder gives an operation back from its word (R46 to R48). -/
theorem decode_encode (i : Instr) : decode (encode i) = .instr i :=
  (Machine.PortInput.ofInstr_presents i).2

/-- Settles O3: a word is the word of its two fields, so `op` alone tells it but for `din`, and BYTE's `din` is its
operand. -/
theorem decodeInvertsEncode : Obligations.DecodeInvertsEncode := by
  refine ⟨fun i => ⟨decode_encode i, ?_⟩, fun w b h => ?_, fun w h => ⟨dinField w, ?_⟩, fun w h => ⟨dinField w, ?_⟩⟩
  · rw [decodeTableWord, tableWord_toNat, decode_encode, Decoded.instr?]
  · exact eq_opWord_iff.2 (decode_eq_byte_iff.1 h)
  · exact eq_opWord_iff.2 ⟨decode_eq_nop_iff.1 h, rfl⟩
  · exact eq_opWord_iff.2 ⟨decode_eq_ack_iff.1 h, rfl⟩

/-- Settles O2: each row's match is the word of its `op` with `din` cleared. -/
theorem operationSelectedByHighBitsAlone : Obligations.OperationSelectedByHighBitsAlone := by
  refine fun w => ⟨?_, fun b => ?_, ?_, ?_⟩
  · exact decode_eq_nop_iff.trans and_mask_eq_opWord_iff.symm
  · rw [decode_eq_byte_iff, ← dinField_toNat, BitVec.toNat_inj, eq_comm (a := b)]
    exact and_congr_left' and_mask_eq_opWord_iff.symm
  · exact decode_eq_ack_iff.trans and_mask_eq_opWord_iff.symm
  · exact decode_eq_reservedOp_iff.trans and_mask_eq_opWord_iff.symm

/-- Settles O1: eleven closed words, each evaluated. -/
theorem sampleWordsDecode : Obligations.SampleWordsDecode := by
  unfold Obligations.SampleWordsDecode
  decide

end Sys2Proof
end

section
/-! PROOF. The reserved word at the port (R49, R91). -/

namespace Sys2Proof.Machine

/-- A reserved word is refused (R91, D3). -/
theorem runInput_of_reservedOp {inp : PortInput} (s : State) (hrst : inp.rst = false)
    (hd : decode inp.word = .reservedOp) : runInput inp s = .refused .reservedOperation := by
  simp [runInput, hrst, hd]

/-- Settles O7: the decoder names the word reserved, so the step refuses it and it presents no BYTE to take. -/
theorem reservedWordIsRefused : Obligations.ReservedWordIsRefused := by
  intro s inp rest hp hrst hop
  have hd := decode_eq_reservedOp_iff.2 hop
  constructor
  · rw [step_of_pending hp, runInput_of_reservedOp _ hrst hd]
  · simp [← Bool.not_eq_true, take_iff, hd]

end Sys2Proof.Machine
end

section
/-! PROOF. The line FRAME of the assembler (R52, R54). -/

namespace Sys2Proof.Machine

/-- Expansion of a line the assembler accepts. -/
theorem expand_of_wellFormed {c : Config} {l : AsmLine} (h : l.wellFormed c = true) :
    expand c l = some (expansion c l) :=
  if_pos h

/-- Expansion of a line the assembler refuses. -/
theorem expand_of_not_wellFormed {c : Config} {l : AsmLine} (h : ¬l.wellFormed c = true) : expand c l = none :=
  if_neg h

/-- A byte written as a literal is read back as itself (R52). -/
@[simp] theorem byteOfLiteral_toNat (b : Byte) : byteOfLiteral b.toNat = b := by
  rw [byteOfLiteral, BitVec.ofNat_toNat, BitVec.setWidth_eq]

/-- FRAME with bytes for literals is accepted exactly when they can be framed (R54). -/
theorem frame_wellFormed_iff {c : Config} {p : List Byte} :
    (AsmLine.frame (p.map BitVec.toNat)).wellFormed c = true ↔ framable c p := by
  have hall : (p.map BitVec.toNat).all isByteLiteral = true := by
    simpa [isByteLiteral] using fun b _ => b.isLt
  simp [AsmLine.wellFormed, hall]

/-- FRAME with bytes for literals stands for the BYTE operations of the frame that carries them (R54). -/
theorem expansion_frame (c : Config) (p : List Byte) :
    expansion c (.frame (p.map BitVec.toNat)) = (frameBytes c p).map .byte := by
  have hp : (p.map BitVec.toNat).map byteOfLiteral = p := by simp [Function.comp_def]
  rw [expansion, hp]

/-- A frame has four bytes beside its payload (R42). -/
@[simp] theorem frameBytes_length (c : Config) (p : List Byte) : (frameBytes c p).length = p.length + 4 := by
  simp [frameBytes]

/-- The LEN byte of a payload that can be framed does not wrap (R44, R5). -/
theorem lenByte_toNat {c : Config} {p : List Byte} (h : framable c p) : (lenByte p).toNat = p.length + 1 := by
  obtain ⟨-, hp⟩ := h
  obtain ⟨-, hmax⟩ := Config.maxPayloadSize_bounds c
  have hlt : p.length + 1 < 2 ^ 8 := by omega
  rw [lenByte, BitVec.toNat_ofNat, Nat.mod_eq_of_lt hlt]

/-- Settles O48: the line is accepted exactly when its bytes can be framed, and then it is that frame, byte by byte. -/
theorem frameLineExpandsToOneFrame : Obligations.FrameLineExpandsToOneFrame := by
  refine fun c p => ⟨fun h => ⟨(frameBytes c p).map .byte, ?_, ?_, ?_, rfl, rfl⟩, fun h => ?_, fun v hv => ?_⟩
  · rw [expand_of_wellFormed (frame_wellFormed_iff.2 h), expansion_frame]
  · rw [List.length_map, frameBytes_length]
  · rw [List.length_map, frameBytes_length, lenByte_toNat h]
  · exact expand_of_not_wellFormed (mt frame_wellFormed_iff.1 h)
  · exact expand_of_not_wellFormed (by simpa [AsmLine.wellFormed, isByteLiteral] using hv)

end Sys2Proof.Machine
end

section
/-! PROOF. BYTE, row by row of the state machine, and NOP (R57 to R69). -/

namespace Sys2Proof.Machine

/-- Settles O4: a step presented with an operation is its meaning. -/
theorem stepRunsDecodedOperation : Obligations.StepRunsDecodedOperation :=
  fun _ _ _ _ hp hrst hd => step_of_presents hp ⟨hrst, hd⟩

/-- A word with an operation in the opcode table's numbering decodes to it at the port. -/
theorem decode_tableWord_of_decodeTableWord {nbits w : Nat} {i : Instr} (h : decodeTableWord nbits w = some i) :
    decode (tableWord nbits w) = .instr i := by
  cases hd : decode (tableWord nbits w) with
  | instr j => simpa [decodeTableWord, hd, Decoded.instr?] using h
  | reservedOp => simp [decodeTableWord, hd, Decoded.instr?] at h

/-- Settles O5: the word is the next input, and with it off the list the state is the one before it was presented. -/
theorem fetchedWordRunsNext : Obligations.FetchedWordRunsNext :=
  fun _ _ _ _ h => step_of_presents (State.presentFirst_pending _ _) ⟨rfl, decode_tableWord_of_decodeTableWord h⟩

/-- With NOP presented no byte is taken (R57). -/
theorem take_of_nop {inp : PortInput} (s : State) (h : inp.presents .nop) : take inp s = false := by
  obtain ⟨-, hd⟩ := h
  simp [← Bool.not_eq_true, take_iff, hd]

/-- Settles O9: a word of NOP's row decodes to NOP, so the step only takes the input off the list. -/
theorem nopWritesNothing : Obligations.NopWritesNothing := by
  refine ⟨fun s => ⟨rfl, rfl⟩, fun s w a rest hw hp => ?_⟩
  have hd : decode w = .instr .nop := decode_eq_nop_iff.2 (and_mask_eq_opWord_iff.1 hw)
  exact ⟨step_of_presents hp ⟨rfl, hd⟩, take_of_nop _ ⟨rfl, hd⟩, rfl, State.len_eq _⟩

/-- BYTE takes its byte in every state but PayloadReady (R25, R58). -/
theorem State.takes_byte_iff {s : State} {b : Byte} : s.takes (.byte b) = true ↔ s.st ≠ .payloadReady :=
  State.takesByte_iff

/-- BYTE takes its byte in a given state other than PayloadReady. -/
theorem State.takes_byte_of_st {s : State} {x : DecoderState} (b : Byte) (hst : s.st = x)
    (hx : x ≠ .payloadReady := by decide) : s.takes (.byte b) = true :=
  State.takes_byte_iff.2 (hst ▸ hx)

/-- BYTE in AwaitingSync with a byte that is not SYNC_BYTE changes nothing (R60). -/
theorem execByte_noise {s : State} {b : Byte} (hst : s.st = .awaitingSync) (hb : b ≠ s.cfg.syncByte) :
    execByte b s = .next s :=
  (execByte_awaitingSync b hst).trans (byteAwaitingSync_neg hb)

/-- BYTE in AwaitingSync with SYNC_BYTE (R59). -/
theorem execByte_firstSync {s : State} (hst : s.st = .awaitingSync) :
    execByte s.cfg.syncByte s = .next (s.setSt .syncByte1Seen) :=
  (execByte_awaitingSync _ hst).trans (byteAwaitingSync_pos rfl)

/-- BYTE in SyncByte1Seen with SYNC_BYTE (R61). -/
theorem execByte_secondSync {s : State} (hst : s.st = .syncByte1Seen) :
    execByte s.cfg.syncByte s = .next (s.setSt .lengthReceived) :=
  (execByte_syncByte1Seen _ hst).trans (byteSyncByte1Seen_pos rfl)

/-- BYTE in LengthReceived with a LEN byte in the accepted window (R65). -/
theorem execByte_acceptedLength {s : State} {b : Byte} (hst : s.st = .lengthReceived)
    (hb : lenAccepted s.cfg b = true) : execByte b s = .next (s.acceptLength b) :=
  (execByte_lengthReceived b hst).trans (byteLengthReceived_pos hb)

/-- BYTE in SyncByte1Seen with any other byte (R62). -/
theorem execByte_badSync {s : State} {b : Byte} (hst : s.st = .syncByte1Seen) (hb : b ≠ s.cfg.syncByte) :
    execByte b s = .next s.resync :=
  (execByte_syncByte1Seen b hst).trans (byteSyncByte1Seen_neg hb)

/-- BYTE in LengthReceived with a LEN byte outside the accepted window (R64). -/
theorem execByte_badLength {s : State} {b : Byte} (hst : s.st = .lengthReceived)
    (hb : lenAccepted s.cfg b = false) : execByte b s = .next s.resync :=
  (execByte_lengthReceived b hst).trans (byteLengthReceived_neg (Bool.eq_false_iff.1 hb))

/-- BYTE in ChecksumPending with a byte other than `chk` (R68). -/
theorem execByte_badChecksum {s : State} {b : Byte} (hst : s.st = .checksumPending) (hb : b ≠ s.chk) :
    execByte b s = .next s.resync :=
  (execByte_checksumPending b hst).trans (byteChecksumPending_neg hb)

/-- BYTE in ChecksumPending with the byte `chk` (R67). -/
theorem execByte_matchingChecksum {s : State} (hst : s.st = .checksumPending) :
    execByte s.chk s = .next (s.setSt .payloadReady) :=
  (execByte_checksumPending _ hst).trans (byteChecksumPending_pos rfl)

/-- Settles O11: the two branches of the row. -/
theorem byteInAwaitingSync : Obligations.ByteInAwaitingSync := by
  refine fun s b hst => ⟨State.takes_byte_of_st b hst, ?_, execByte_noise hst⟩
  rintro rfl
  exact execByte_firstSync hst

/-- Settles O13: the row's branch for SYNC_BYTE. -/
theorem secondSyncByteAwaitsLength : Obligations.SecondSyncByteAwaitsLength :=
  fun _ hst => ⟨execByte_secondSync hst, State.takes_byte_of_st _ hst⟩

/-- Settles O15: the byte is in the accepted window, so `exp_len` is LEN - 1 without wrapping. -/
theorem acceptedLengthStartsPayload : Obligations.AcceptedLengthStartsPayload := by
  intro s b hst hmin hmax
  have hb : lenAccepted s.cfg b = true := lenAccepted_iff.2 ⟨hmin, hmax⟩
  exact ⟨State.takes_byte_of_st b hst, execByte_acceptedLength hst hb, expectedLength_bounds hb⟩

/-- Settles O17: `fill` names a cell, so the byte is stored there, and `fill` is at most 253. -/
theorem payloadByteIsStoredAndSummed : Obligations.PayloadByteIsStoredAndSummed := by
  intro s b hst hfill
  have hmax := Config.maxPayloadSize_bounds s.cfg
  refine ⟨State.takes_byte_of_st b hst, ?_, Memory.read_write_same _ _ _, by bv_omega⟩
  rw [← hst]
  exact execByte_eq_acceptPayload b hst hfill

/-- Settles O19: the row's branch for a matching byte; `ready` and `len` go by the new Decoder State. -/
theorem matchingChecksumMakesReady : Obligations.MatchingChecksumMakesReady :=
  fun _ hst => ⟨State.takes_byte_of_st _ hst, execByte_matchingChecksum hst, rfl, rfl⟩

/-- Settles O21: in PayloadReady no row applies. -/
theorem byteIsHeldWhileReady : Obligations.ByteIsHeldWhileReady := by
  refine fun s b hst => ⟨execByte_payloadReady b hst, State.takesByte_eq_false_iff.2 hst, ?_⟩
  rw [State.len_eq, if_pos hst]

/-- Settles O27: only an accepted LEN and a payload byte write these registers, and only a payload byte the buffer. -/
theorem byteFrameStateByState : Obligations.ByteFrameStateByState := by
  intro s t b h
  have hbuf : s.st ≠ .accumulatingPayload → t.buf = s.buf := execByte_buf_of_not_accumulatingPayload h
  refine ⟨fun hlen => ?_, fun hlen hacc => ?_, hbuf, fun k hk => ?_⟩
  · obtain ⟨hst, -⟩ | ⟨-, hexpLen⟩ | ⟨hexpLen, -, -⟩ := execByte_registers h
    · exact absurd hst hlen
    · exact hexpLen
    · exact hexpLen
  · obtain ⟨hst, -⟩ | ⟨hst, -⟩ | ⟨-, hfill, hchk⟩ := execByte_registers h
    · exact absurd hst hlen
    · exact absurd hst hacc
    · exact ⟨hfill, hchk⟩
  · by_cases hst : s.st = .accumulatingPayload
    · rw [State.readCell, execByte_buf_of_accumulatingPayload h hst]
      exact Memory.read_write_other _ _ hk
    · rw [State.readCell, hbuf hst, State.readCell]

/-- Under the invariants SENTINEL is never the length of a payload that is ready (R7, R27). -/
theorem State.Inv.expLen_ne_sentinel {s : State} (h : s.Inv) (hst : s.st = .payloadReady) : s.expLen ≠ 0xFF#8 := by
  obtain ⟨-, hlen, -, -, -⟩ := h
  obtain ⟨-, hexpLen, -⟩ := hlen (State.inFrame_iff.2 (.inr (.inr hst)))
  have hmax := Config.maxPayloadSize_bounds s.cfg
  bv_omega

/-- Settles O33: both forms of the result go by `ready`, and a length that is shown is not 0xFF. -/
theorem pollResultTellsReadyLength : Obligations.PollResultTellsReadyLength := by
  refine fun s t inp => ⟨rfl, State.len_eq t, ?_, fun ht => ?_⟩
  · by_cases hst : t.st = .payloadReady <;> simp [State.pollResult, State.ready, State.len, hst]
  · by_cases hst : t.st = .payloadReady
    · simp [outputs, State.pollResult, State.ready, State.len_eq, hst, ht.expLen_ne_sentinel hst]
    · simp [outputs, State.pollResult, State.ready, State.len_eq, hst]

/-- Settles O47: SYNC_BYTE stands in no test of the four rows, and of the values written only in the seed of `chk`. -/
theorem syncByteIsOrdinaryInsideAFrame : Obligations.SyncByteIsOrdinaryInsideAFrame := by
  intro s t b y hawait hsync h
  obtain ⟨hst, rfl⟩ | ⟨hst, -⟩ | ⟨hst, -⟩ | ⟨hst, -⟩ | ⟨hst, -⟩ | ⟨hst, hb, rfl⟩ | ⟨hst, hb, rfl⟩ |
    ⟨hst, hfill, rfl⟩ | ⟨hst, rfl, rfl⟩ | ⟨hst, hb, rfl⟩ := execByte_cases h
  · exact ⟨_, execByte_payloadReady b hst, rfl, rfl, rfl, rfl, fun _ => rfl⟩
  · exact absurd hst hawait
  · exact absurd hst hawait
  · exact absurd hst hsync
  · exact absurd hst hsync
  · exact ⟨_, execByte_acceptedLength hst hb, rfl, rfl, rfl, rfl, fun hlen => absurd hst hlen⟩
  · exact ⟨_, execByte_badLength hst hb, rfl, rfl, rfl, rfl, fun _ => rfl⟩
  · exact ⟨_, execByte_eq_acceptPayload b hst hfill, rfl, rfl, rfl, rfl, fun _ => rfl⟩
  · exact ⟨_, execByte_matchingChecksum hst, rfl, rfl, rfl, rfl, fun _ => rfl⟩
  · exact ⟨_, execByte_badChecksum hst hb, rfl, rfl, rfl, rfl, fun _ => rfl⟩

end Sys2Proof.Machine
end

section
/-! PROOF. Framing errors: each kind resynchronises, and nothing is shown afterwards (R62 to R64, R68, R87 to R89). -/

namespace Sys2Proof.Machine

/-- The table of R87, its rows read off an error that was raised. -/
theorem State.framingError_cases {s : State} {b : Byte} {e : FramingError} (h : s.framingError b = some e) :
    (s.st = .syncByte1Seen ∧ b ≠ s.cfg.syncByte) ∨ (s.st = .lengthReceived ∧ lenAccepted s.cfg b = false) ∨
      (s.st = .checksumPending ∧ b ≠ s.chk) := by
  unfold State.framingError at h
  split at h
  next => cases h
  next hst => exact .inl ⟨hst, Decidable.byContradiction fun hb => by simp [hb] at h⟩
  next hst =>
    refine .inr (.inl ⟨hst, Bool.eq_false_iff.2 fun hb => ?_⟩)
    obtain ⟨hmin, hmax⟩ := lenAccepted_iff.1 hb
    simp [Nat.not_lt.2 hmin, Nat.not_lt.2 hmax] at h
  next => cases h
  next hst => exact .inr (.inr ⟨hst, Decidable.byContradiction fun hb => by simp [hb] at h⟩)
  next => cases h

/-- In LengthReceived the bytes outside the window are the ones that raise an error (R64). -/
theorem State.framingError_badLength_iff {s : State} {b : Byte} (hst : s.st = .lengthReceived) :
    s.framingError b = some .badLength ↔ b.toNat < 2 ∨ s.cfg.maxPayloadSize + 1 < b.toNat := by
  simp only [State.framingError, hst, Option.ite_none_right_eq_some, and_true]

theorem State.framingError_badSync {s : State} {b : Byte} (hst : s.st = .syncByte1Seen)
    (hb : b ≠ s.cfg.syncByte) : s.framingError b = some .badSync := by
  simp [State.framingError, hst, hb]

theorem State.framingError_badChecksum {s : State} {b : Byte} (hst : s.st = .checksumPending) (hb : b ≠ s.chk) :
    s.framingError b = some .badChecksum := by
  simp [State.framingError, hst, hb]

/-- A byte that raises a framing error is taken, and the decoder resynchronises (R63). -/
theorem takes_and_resync_of_framingError {s : State} {b : Byte} {e : FramingError}
    (h : s.framingError b = some e) : s.takes (.byte b) = true ∧ exec (.byte b) s = .next s.resync := by
  obtain ⟨hst, hb⟩ | ⟨hst, hb⟩ | ⟨hst, hb⟩ := State.framingError_cases h
  · exact ⟨State.takes_byte_of_st b hst, execByte_badSync hst hb⟩
  · exact ⟨State.takes_byte_of_st b hst, execByte_badLength hst hb⟩
  · exact ⟨State.takes_byte_of_st b hst, execByte_badChecksum hst hb⟩

/-- No read is defined outside PayloadReady (R81). -/
theorem State.rdData_eq_none {s : State} (a : Byte) (h : s.ready = false) : s.rdData a = none := by
  simp [State.rdData, State.readDefined, h]

/-- Settles O29: after resynchronisation the Decoder State is AwaitingSync, where nothing is shown. -/
theorem everyFramingErrorOnlyResynchronises : Obligations.EveryFramingErrorOnlyResynchronises := by
  intro s b e h
  obtain ⟨htake, hexec⟩ := takes_and_resync_of_framingError h
  exact ⟨htake, hexec, rfl, rfl, fun a => State.rdData_eq_none a rfl⟩

/-- Settles O14: a BadSync, and in AwaitingSync the same byte is noise. -/
theorem badSecondSyncResynchronises : Obligations.BadSecondSyncResynchronises := by
  intro s b hst hb
  have herr := State.framingError_badSync hst hb
  obtain ⟨htake, hexec⟩ := takes_and_resync_of_framingError herr
  exact ⟨herr, htake, hexec, execByte_noise (s := s.resync) rfl hb⟩

/-- Settles O16: a BadLength; no byte exceeds 255 = MAX_PAYLOAD_SIZE + 1. -/
theorem rejectedLengthResynchronises : Obligations.RejectedLengthResynchronises := by
  refine fun s b hst => ⟨fun hb => ?_, fun hmax herr => ?_⟩
  · have herr := (State.framingError_badLength_iff hst).2 hb
    exact ⟨herr, takes_and_resync_of_framingError herr⟩
  · have hb := (State.framingError_badLength_iff hst).1 herr
    have := b.isLt
    omega

/-- Settles O20: a BadChecksum, and in AwaitingSync no read is defined. -/
theorem wrongChecksumResynchronises : Obligations.WrongChecksumResynchronises := by
  intro s b hst hb
  have herr := State.framingError_badChecksum hst hb
  obtain ⟨htake, hexec⟩ := takes_and_resync_of_framingError herr
  exact ⟨herr, htake, hexec, fun a => State.rdData_eq_none a rfl⟩

end Sys2Proof.Machine
end

section
/-! PROOF. Bytes taken one after another, and the runs whose inputs present them, NOPs anywhere between (R57, R58). -/

namespace Sys2Proof.Machine

/-- The bytes are taken one after another and lead from the first state to the second. -/
inductive Consumes : List Byte → State → State → Prop where
  | nil (s : State) : Consumes [] s s
  | cons {b : Byte} {bs : List Byte} {s t u : State} (htake : s.st ≠ .payloadReady)
      (hb : execByte b s = .next t) (hbs : Consumes bs t u) : Consumes (b :: bs) s u

theorem Consumes.append {bs cs : List Byte} {s t u : State} (hbs : Consumes bs s t) (hcs : Consumes cs t u) :
    Consumes (bs ++ cs) s u := by
  induction hbs with
  | nil => exact hcs
  | cons htake hb _ ih => exact .cons htake hb (ih hcs)

/-- One byte taken. -/
theorem Consumes.single {b : Byte} {s t : State} (htake : s.st ≠ .payloadReady) (hb : execByte b s = .next t) :
    Consumes [b] s t :=
  .cons htake hb (.nil t)

/-- An operation presented leads where its meaning leads, with what follows still to be presented. -/
theorem step_presents_of_exec {inp : PortInput} {i : Instr} {s t : State} (ps : List PortInput)
    (hi : inp.presents i) (h : exec i s = .next t) : step (s.setPending (inp :: ps)) = .next (t.setPending ps) := by
  rw [step_of_presents (State.setPending_pending _ _) hi, State.setPending_setPending, exec_setPending, h, mapNext]

theorem bytesPresented_cons_nop {inp : PortInput} (ops : List PortInput) (h : inp.presents .nop) :
    bytesPresented (inp :: ops) = bytesPresented ops := by
  obtain ⟨-, hd⟩ := h
  simp [bytesPresented, hd]

theorem bytesPresented_cons_byte {inp : PortInput} {b : Byte} (ops : List PortInput) (h : inp.presents (.byte b)) :
    bytesPresented (inp :: ops) = b :: bytesPresented ops := by
  obtain ⟨-, hd⟩ := h
  simp [bytesPresented, hd]

theorem PortInput.presentsByte_of_nop {inp : PortInput} (h : inp.presents .nop) : inp.presentsByte = false := by
  obtain ⟨hrst, hd⟩ := h
  simp [PortInput.presentsByte, hrst, hd]

theorem PortInput.presentsByte_of_byte {inp : PortInput} {b : Byte} (h : inp.presents (.byte b)) :
    inp.presentsByte = true := by
  obtain ⟨hrst, hd⟩ := h
  simp [PortInput.presentsByte, hrst, hd]

/-- With BYTE presented the byte is taken outside PayloadReady (R58). -/
theorem take_of_byte {inp : PortInput} {b : Byte} {s : State} (h : inp.presents (.byte b))
    (hst : s.st ≠ .payloadReady) : take inp s = true := by
  obtain ⟨hrst, hd⟩ := h
  exact take_iff.2 ⟨hrst, ⟨b, hd⟩, hst⟩

/-- A run over polls that present bytes the decoder takes leads where the bytes lead, and `take` is 1 in exactly the
steps that present a byte. -/
theorem Consumes.run_polls {ops : List PortInput} {s t : State} (rest : List PortInput)
    (hpolls : ∀ inp ∈ ops, inp.isPoll) (h : Consumes (bytesPresented ops) s t) :
    run ops.length (s.setPending (ops ++ rest)) = .next (t.setPending rest) ∧
      (observeRun ops.length (s.setPending (ops ++ rest))).map Outputs.take = ops.map PortInput.presentsByte := by
  induction ops generalizing s with
  | nil =>
    cases h
    exact ⟨rfl, rfl⟩
  | cons inp ops ih =>
    obtain ⟨hinp, hlater⟩ := List.forall_mem_cons.1 hpolls
    rw [List.length_cons, List.cons_append, List.map_cons]
    obtain hnop | ⟨b, hb⟩ := hinp
    · rw [bytesPresented_cons_nop ops hnop] at h
      have hstep := step_presents_of_exec (s := s) (ops ++ rest) hnop rfl
      obtain ⟨hrun, htakes⟩ := ih hlater h
      rw [run_succ_of_next _ hstep, observeRun_succ_of_next _ rfl hstep, List.map_cons, htakes,
        PortInput.presentsByte_of_nop hnop]
      exact ⟨hrun, congrArg (· :: _) (take_of_nop _ hnop)⟩
    · rw [bytesPresented_cons_byte ops hb] at h
      cases h with
      | cons htake hexec hbs =>
        have hstep := step_presents_of_exec (ops ++ rest) hb hexec
        obtain ⟨hrun, htakes⟩ := ih hlater hbs
        rw [run_succ_of_next _ hstep, observeRun_succ_of_next _ rfl hstep, List.map_cons, htakes,
          PortInput.presentsByte_of_byte hb]
        exact ⟨hrun, congrArg (· :: _) (take_of_byte hb htake)⟩

@[simp] theorem byteInputs_length (bs : List Byte) : (byteInputs bs).length = bs.length :=
  List.length_map _

theorem byteInputs_isPoll {bs : List Byte} : ∀ inp ∈ byteInputs bs, inp.isPoll := by
  intro inp hinp
  obtain ⟨b, -, rfl⟩ := List.mem_map.1 hinp
  exact .inr ⟨b, PortInput.ofInstr_presents _⟩

@[simp] theorem bytesPresented_byteInputs (bs : List Byte) : bytesPresented (byteInputs bs) = bs := by
  induction bs with
  | nil => rfl
  | cons b bs ih => exact (bytesPresented_cons_byte _ (PortInput.ofInstr_presents _)).trans (congrArg _ ih)

/-- Bytes presented one a step, with no NOP between them, run to where they lead, and each is taken. -/
theorem Consumes.run_byteInputs {bs : List Byte} {s t : State} (rest : List PortInput) (h : Consumes bs s t) :
    run bs.length (s.setPending (byteInputs bs ++ rest)) = .next (t.setPending rest) ∧
      (observeRun bs.length (s.setPending (byteInputs bs ++ rest))).map Outputs.take = bs.map fun _ => true := by
  rw [← bytesPresented_byteInputs bs] at h
  have hmap : (byteInputs bs).map PortInput.presentsByte = bs.map fun _ => true := by
    rw [byteInputs, List.map_map]
    exact List.map_congr_left fun b _ => PortInput.presentsByte_of_byte (PortInput.ofInstr_presents _)
  simpa only [byteInputs_length, hmap] using h.run_polls rest byteInputs_isPoll

/-- A state that presents what it is given to present. -/
theorem State.eq_setPending {s : State} {ps : List PortInput} (h : s.pending = ps) : s = s.setPending ps :=
  h ▸ s.setPending_self.symm

/-- Noise in AwaitingSync is taken and leads nowhere (R60). -/
theorem consumes_noise {bs : List Byte} {s : State} (hst : s.st = .awaitingSync)
    (hbs : ∀ b ∈ bs, b ≠ s.cfg.syncByte) : Consumes bs s s := by
  induction bs with
  | nil => exact .nil s
  | cons b bs ih =>
    obtain ⟨hb, hlater⟩ := List.forall_mem_cons.1 hbs
    exact .cons (by simp [hst]) (execByte_noise hst hb) (ih hlater)

/-- Settles O12: noise leads from a state in AwaitingSync to that state. -/
theorem noiseBeforeSyncIsDiscarded : Obligations.NoiseBeforeSyncIsDiscarded := by
  intro bs s rest hst hbs hp
  have h := (consumes_noise hst hbs).run_byteInputs rest
  rwa [← State.eq_setPending hp] at h

end Sys2Proof.Machine
end

section
/-! PROOF. A payload received byte by byte (R66, R72). -/

namespace Sys2Proof.Machine

/-- The writes of payload bytes stored one after another. -/
def State.acceptPayloads (s : State) (bs : List Byte) : State := bs.foldl State.acceptPayload s

/-- A payload is being received and these bytes are among those still to come: ChecksumPending exactly once `fill`
is `exp_len`, and the bytes end at or before `exp_len`. -/
structure State.HasRoomFor (s : State) (bs : List Byte) : Prop where
  st_eq : s.st = if s.fill = s.expLen then .checksumPending else .accumulatingPayload
  room : s.fill.toNat + bs.length ≤ s.expLen.toNat
  fits : s.expLen.toNat ≤ s.cfg.maxPayloadSize

@[simp] theorem State.acceptPayloads_nil (s : State) : s.acceptPayloads [] = s := rfl

@[simp] theorem State.acceptPayloads_cons (s : State) (b : Byte) (bs : List Byte) :
    s.acceptPayloads (b :: bs) = (s.acceptPayload b).acceptPayloads bs := rfl

@[simp] theorem State.acceptPayloads_cfg (s : State) (bs : List Byte) : (s.acceptPayloads bs).cfg = s.cfg := by
  induction bs generalizing s with
  | nil => rfl
  | cons b bs ih => exact ih _

@[simp] theorem State.acceptPayloads_expLen (s : State) (bs : List Byte) :
    (s.acceptPayloads bs).expLen = s.expLen := by
  induction bs generalizing s with
  | nil => rfl
  | cons b bs ih => exact ih _

/-- `chk` grows by the sum of the bytes (R72). -/
theorem State.acceptPayloads_chk (s : State) (bs : List Byte) :
    (s.acceptPayloads bs).chk = s.chk + byteSum bs := by
  induction bs generalizing s with
  | nil => exact (BitVec.add_zero _).symm
  | cons b bs ih => exact (ih _).trans (BitVec.add_assoc _ _ _)

/-- With a byte still to come the decoder is accumulating and `fill` names a cell. -/
theorem State.HasRoomFor.accumulating {s : State} {b : Byte} {bs : List Byte} (h : s.HasRoomFor (b :: bs)) :
    s.st = .accumulatingPayload ∧ s.fill.toNat < s.cfg.maxPayloadSize := by
  obtain ⟨hst, hroom, hfits⟩ := h
  rw [List.length_cons] at hroom
  have hne : s.fill ≠ s.expLen := fun heq => by rw [heq] at hroom; omega
  exact ⟨hst.trans (if_neg hne), by omega⟩

/-- A payload byte is counted without wrapping. -/
theorem State.HasRoomFor.acceptPayload_fill {s : State} {b : Byte} {bs : List Byte} (h : s.HasRoomFor (b :: bs)) :
    (s.acceptPayload b).fill.toNat = s.fill.toNat + 1 := by
  have hroom := h.room
  rw [List.length_cons] at hroom
  rw [State.acceptPayload_fill]
  bv_omega

/-- After a payload byte there is room for the rest. -/
theorem State.HasRoomFor.acceptPayload {s : State} {b : Byte} {bs : List Byte} (h : s.HasRoomFor (b :: bs)) :
    (s.acceptPayload b).HasRoomFor bs := by
  refine ⟨?_, ?_, h.fits⟩
  · obtain ⟨hst, -⟩ := h.accumulating
    rw [← hst]
    rfl
  · have hroom := h.room
    rw [List.length_cons] at hroom
    rw [h.acceptPayload_fill, State.acceptPayload_expLen]
    omega

/-- Bytes there is room for are taken and stored. -/
theorem State.HasRoomFor.consumes {s : State} {bs : List Byte} (h : s.HasRoomFor bs) :
    Consumes bs s (s.acceptPayloads bs) := by
  induction bs generalizing s with
  | nil => exact .nil s
  | cons b bs ih =>
    obtain ⟨hst, hfill⟩ := h.accumulating
    exact .cons (by simp [hst]) (execByte_eq_acceptPayload b hst hfill) (ih h.acceptPayload)

/-- Bytes there is room for are counted without wrapping. -/
theorem State.HasRoomFor.acceptPayloads_fill {s : State} {bs : List Byte} (h : s.HasRoomFor bs) :
    (s.acceptPayloads bs).fill.toNat = s.fill.toNat + bs.length := by
  induction bs generalizing s with
  | nil => rfl
  | cons b bs ih =>
    rw [State.acceptPayloads_cons, ih h.acceptPayload, h.acceptPayload_fill, List.length_cons]
    omega

/-- Once the bytes are stored, ChecksumPending is reached exactly when `exp_len` bytes have come. -/
theorem State.HasRoomFor.acceptPayloads_st {s : State} {bs : List Byte} (h : s.HasRoomFor bs) :
    (s.acceptPayloads bs).st =
      if s.fill.toNat + bs.length = s.expLen.toNat then .checksumPending else .accumulatingPayload := by
  induction bs generalizing s with
  | nil => simpa only [State.acceptPayloads_nil, List.length_nil, Nat.add_zero, BitVec.toNat_inj] using h.st_eq
  | cons b bs ih =>
    rw [State.acceptPayloads_cons, ih h.acceptPayload, h.acceptPayload_fill, State.acceptPayload_expLen,
      List.length_cons, Nat.add_assoc, Nat.add_comm 1]

/-- Cells outside `fill .. fill + n - 1` are left alone by n bytes. -/
theorem State.HasRoomFor.acceptPayloads_readCell_outside {s : State} {bs : List Byte} {k : Nat}
    (h : s.HasRoomFor bs) (hk : k < s.fill.toNat ∨ s.fill.toNat + bs.length ≤ k) :
    (s.acceptPayloads bs).readCell k = s.readCell k := by
  induction bs generalizing s with
  | nil => rfl
  | cons b bs ih =>
    rw [List.length_cons] at hk
    have hne : k ≠ s.fill.toNat := by omega
    rw [State.acceptPayloads_cons, ih h.acceptPayload (by rw [h.acceptPayload_fill]; omega),
      State.acceptPayload_readCell_other s b hne]

/-- The k-th byte is in the k-th cell from `fill` on. -/
theorem State.HasRoomFor.acceptPayloads_readCell {s : State} {bs : List Byte} {k : Nat} (h : s.HasRoomFor bs)
    (hk : k < bs.length) : (s.acceptPayloads bs).readCell (s.fill.toNat + k) = some bs[k] := by
  induction bs generalizing s k with
  | nil => exact absurd hk (Nat.not_lt_zero k)
  | cons b bs ih =>
    cases k with
    | zero =>
      have hfirst : s.fill.toNat < (s.acceptPayload b).fill.toNat := by rw [h.acceptPayload_fill]; omega
      rw [State.acceptPayloads_cons, Nat.add_zero, h.acceptPayload.acceptPayloads_readCell_outside (.inl hfirst)]
      exact State.acceptPayload_readCell_same s b
    | succ k =>
      have hlater := ih h.acceptPayload (Nat.lt_of_succ_lt_succ hk)
      rwa [h.acceptPayload_fill, Nat.add_assoc, Nat.add_comm 1] at hlater

/-- Settles O43: with `fill` = 0 there is room for the bytes, and the k-th cell from `fill` on is cell k. -/
theorem payloadAccumulatesInArrivalOrder : Obligations.PayloadAccumulatesInArrivalOrder := by
  intro bs s rest hst hfill hpos hmax hlen hp
  have hzero : s.fill.toNat = 0 := congrArg BitVec.toNat hfill
  have hne : s.fill ≠ s.expLen := fun heq => by rw [← heq] at hpos; omega
  have h : s.HasRoomFor bs := ⟨hst.trans (if_neg hne).symm, by omega, hmax⟩
  refine ⟨(s.acceptPayloads bs).setPending rest, ?_, rfl, s.acceptPayloads_cfg bs, s.acceptPayloads_expLen bs, ?_,
    s.acceptPayloads_chk bs, ?_, fun k hk => ?_, fun k hk => ?_⟩
  · have hrun := (h.consumes.run_byteInputs rest).1
    rwa [← State.eq_setPending hp] at hrun
  · simpa [hzero] using h.acceptPayloads_fill
  · simpa [hzero] using h.acceptPayloads_st
  · have hcell := h.acceptPayloads_readCell hk
    rwa [hzero, Nat.zero_add] at hcell
  · exact h.acceptPayloads_readCell_outside (.inr (by omega))

end Sys2Proof.Machine
end

section
/-! PROOF. Whole frames: a valid one is decoded, and one with a wrong checksum is rejected (R42, R74 to R76). -/

namespace Sys2Proof.Machine

/-- The state after the two sync bytes, LEN and the payload of a frame, its checksum byte still to come. -/
def State.receivePayload (s : State) (p : List Byte) : State := (s.acceptLength (lenByte p)).acceptPayloads p

/-- The state after a whole frame whose checksum byte matches. -/
def State.receiveFrame (s : State) (p : List Byte) : State := (s.receivePayload p).setSt .payloadReady

variable {s : State} {p : List Byte}

/-- The LEN byte of a payload that can be framed is accepted, and `exp_len` is the payload's length (R44, R65). -/
theorem lenByte_accepted {c : Config} (h : framable c p) :
    lenAccepted c (lenByte p) = true ∧ (expectedLength (lenByte p)).toNat = p.length := by
  have hlen := lenByte_toNat h
  have haccept : lenAccepted c (lenByte p) = true := lenAccepted_iff.2 (by omega)
  obtain ⟨hexpLen, -, -⟩ := expectedLength_bounds haccept
  exact ⟨haccept, by omega⟩

/-- After its LEN byte there is room for the whole payload. -/
theorem State.acceptLength_hasRoomFor (h : framable s.cfg p) : (s.acceptLength (lenByte p)).HasRoomFor p := by
  obtain ⟨-, hexpLen⟩ := lenByte_accepted h
  obtain ⟨hpos, hmax⟩ := h
  have hne : 0x00#8 ≠ expectedLength (lenByte p) := fun heq => by
    rw [← heq, BitVec.toNat_zero] at hexpLen
    omega
  refine ⟨(if_neg hne).symm, ?_, ?_⟩
  · show 0 + p.length ≤ (expectedLength (lenByte p)).toNat
    omega
  · show (expectedLength (lenByte p)).toNat ≤ s.cfg.maxPayloadSize
    omega

@[simp] theorem State.receivePayload_cfg (s : State) (p : List Byte) : (s.receivePayload p).cfg = s.cfg :=
  State.acceptPayloads_cfg _ _

theorem State.receivePayload_expLen (h : framable s.cfg p) : (s.receivePayload p).expLen.toNat = p.length := by
  rw [State.receivePayload, State.acceptPayloads_expLen]
  exact (lenByte_accepted h).2

/-- The whole payload was received, so its checksum is awaited. -/
theorem State.receivePayload_st (h : framable s.cfg p) : (s.receivePayload p).st = .checksumPending := by
  have hlen : (s.acceptLength (lenByte p)).fill.toNat + p.length = (s.acceptLength (lenByte p)).expLen.toNat :=
    (Nat.zero_add _).trans (lenByte_accepted h).2.symm
  rw [State.receivePayload, (State.acceptLength_hasRoomFor h).acceptPayloads_st, if_pos hlen]

/-- `chk` is the CHECKSUM of the frame (R42, R72). -/
theorem State.receivePayload_chk (s : State) (p : List Byte) :
    (s.receivePayload p).chk = frameChecksum s.cfg p :=
  State.acceptPayloads_chk _ _

theorem State.receivePayload_readCell {k : Nat} (h : framable s.cfg p) (hk : k < p.length) :
    (s.receivePayload p).readCell k = some p[k] := by
  simpa [State.receivePayload] using (State.acceptLength_hasRoomFor h).acceptPayloads_readCell hk

/-- The bytes of a frame up to its checksum are taken. -/
theorem consumes_beforeChecksum (hst : s.st = .awaitingSync) (h : framable s.cfg p) :
    Consumes (s.cfg.syncByte :: s.cfg.syncByte :: lenByte p :: p) s (s.receivePayload p) := by
  refine .cons (by simp [hst]) (execByte_firstSync hst) ?_
  refine .cons (by simp) (execByte_secondSync rfl) ?_
  refine .cons (by simp) (execByte_acceptedLength rfl (lenByte_accepted h).1) ?_
  exact (State.acceptLength_hasRoomFor h).consumes

/-- A valid frame is taken whole and its payload is ready (R74). -/
theorem consumes_frameBytes (hst : s.st = .awaitingSync) (h : framable s.cfg p) :
    Consumes (frameBytes s.cfg p) s (s.receiveFrame p) := by
  have hchecksum := State.receivePayload_st h
  refine (consumes_beforeChecksum hst h).append (.single (by simp [hchecksum]) ?_)
  rw [← State.receivePayload_chk]
  exact execByte_matchingChecksum hchecksum

/-- A frame with another checksum byte is taken whole and then rejected (R68). -/
theorem consumes_wrongChecksum {c : Byte} (hst : s.st = .awaitingSync) (h : framable s.cfg p)
    (hc : c ≠ frameChecksum s.cfg p) :
    Consumes (s.cfg.syncByte :: s.cfg.syncByte :: lenByte p :: (p ++ [c])) s (s.receivePayload p).resync := by
  have hchecksum := State.receivePayload_st h
  rw [← State.receivePayload_chk] at hc
  exact (consumes_beforeChecksum hst h).append (.single (by simp [hchecksum])
    (execByte_badChecksum hchecksum hc))

/-- The read port gives the payload of the frame and nothing beyond it (R80, R81). -/
theorem State.receiveFrame_rdData (h : framable s.cfg p) (a : Byte) :
    (s.receiveFrame p).rdData a = p[a.toNat]? := by
  have hdefined : (s.receiveFrame p).readDefined a = decide (a.toNat < p.length) := by
    simp [State.readDefined, State.ready, State.receiveFrame, State.receivePayload_expLen h]
  by_cases ha : a.toNat < p.length
  · rw [State.rdData, hdefined, if_pos (decide_eq_true ha), List.getElem?_eq_getElem ha]
    exact State.receivePayload_readCell h ha
  · rw [State.rdData, hdefined, if_neg (by simpa using ha), List.getElem?_eq_none (Nat.not_lt.1 ha)]

/-- Changing one byte changes the sum by the difference. -/
theorem byteSum_set (p : List Byte) {k : Nat} (v : Byte) (hk : k < p.length) :
    byteSum (p.set k v) + p[k] = byteSum p + v := by
  induction p generalizing k with
  | nil => exact absurd hk (Nat.not_lt_zero k)
  | cons b p ih =>
    cases k with
    | zero =>
      simp only [List.set_cons_zero, List.getElem_cons_zero, byteSum]
      ac_rfl
    | succ k =>
      simp only [List.set_cons_succ, List.getElem_cons_succ, byteSum, BitVec.add_assoc,
        ih (Nat.lt_of_succ_lt_succ hk)]

/-- The checksum tells a payload from one that differs in one byte (R75). -/
theorem frameChecksum_set_ne {c : Config} {k : Nat} {v : Byte} (hk : k < p.length) (hv : v ≠ p[k]) :
    frameChecksum c p ≠ frameChecksum c (p.set k v) := by
  intro heq
  have hsum : byteSum p = byteSum (p.set k v) := by
    simpa only [frameChecksum, lenByte, List.length_set, BitVec.add_right_inj] using heq
  have hset := byteSum_set p v hk
  rw [← hsum, BitVec.add_right_inj] at hset
  exact hv hset.symm

end Sys2Proof.Machine
end

section
/-! PROOF. Frames presented at the port (R74 to R76). -/

namespace Sys2Proof.Machine

/-- Settles O44: the bytes of the frame lead to PayloadReady, and NOPs between them change nothing. -/
theorem validFrameIsDecoded : Obligations.ValidFrameIsDecoded := by
  intro ops p s rest hst hp hpolls hbytes hpending
  obtain ⟨hrun, htakes⟩ := (hbytes ▸ consumes_frameBytes hst hp).run_polls rest hpolls
  rw [← State.eq_setPending hpending] at hrun htakes
  exact ⟨htakes, (s.receiveFrame p).setPending rest, hrun, rfl, rfl,
    State.receivePayload_expLen hp, fun _ hk => State.receivePayload_readCell hp hk, State.receiveFrame_rdData hp⟩

/-- Settles O45: the frame's checksum byte is not the checksum of the changed payload. -/
theorem changedPayloadByteIsRejected : Obligations.ChangedPayloadByteIsRejected := by
  intro p k v s rest hk hst hp hv hpending
  have hlen : (p.set k v).length = p.length := List.length_set
  have hset : framable s.cfg (p.set k v) := by rwa [framable, hlen]
  have h := consumes_wrongChecksum hst hset (frameChecksum_set_ne hk hv)
  have hrun := (h.run_byteInputs rest).1
  rw [lenByte, hlen, ← lenByte, ← State.eq_setPending hpending] at hrun
  refine ⟨((s.receivePayload (p.set k v)).resync).setPending rest, ?_, rfl, rfl, rfl⟩
  simpa [hlen] using hrun

/-- A valid frame presented byte by byte runs to PayloadReady. -/
theorem run_frame {s : State} {p : List Byte} (rest : List PortInput) (hst : s.st = .awaitingSync)
    (hp : framable s.cfg p) :
    run (p.length + 4) (s.setPending (byteInputs (frameBytes s.cfg p) ++ rest)) =
      .next ((s.receiveFrame p).setPending rest) := by
  simpa using ((consumes_frameBytes hst hp).run_byteInputs rest).1

/-- Settles O46: ACK leads back to AwaitingSync, from where the frame leads to the same `len` and read port again. -/
theorem acknowledgeThenResendIsIdempotent : Obligations.AcknowledgeThenResendIsIdempotent := by
  intro p s rest hst hp hpending
  have hfirst := run_frame (.ofInstr .ack :: (byteInputs (frameBytes s.cfg p) ++ rest)) hst hp
  rw [← State.eq_setPending hpending] at hfirst
  obtain ⟨t, hack, hst', hcfg⟩ : ∃ t, exec .ack (s.receiveFrame p) = .next t ∧ t.st = .awaitingSync ∧ t.cfg = s.cfg :=
    ⟨_, rfl, rfl, State.receivePayload_cfg s p⟩
  have hp' : framable t.cfg p := hcfg ▸ hp
  have hsecond := run_frame rest hst' hp'
  rw [hcfg] at hsecond
  refine ⟨_, (t.receiveFrame p).setPending rest, hfirst, ?_, rfl, rfl, ?_, fun a => ?_, rfl⟩
  · rw [Nat.two_mul, Nat.add_assoc, run_add hfirst, run_succ_of_next _ (step_presenting_of_exec _ hack)]
    exact hsecond
  · exact BitVec.eq_of_toNat_eq ((State.receivePayload_expLen hp').trans (State.receivePayload_expLen hp).symm)
  · exact (State.receiveFrame_rdData hp' a).trans (State.receiveFrame_rdData hp a).symm

end Sys2Proof.Machine
end

section
/-! PROOF. The poll loop of option (b) as a sequence of BYTE operations (R71). -/

namespace Sys2Proof.Machine

/-- The ways a call with a byte available answers: the packet is ready after that byte, or the call goes on. -/
theorem drain_cons_cases {b : Byte} {bs kept : List Byte} {s t : State}
    (h : drain (b :: bs) s = .next (t, kept)) :
    ∃ u, execByte b s = .next u ∧
      ((u.ready = true ∧ t = u ∧ kept = if s.ready then b :: bs else bs) ∨
        (u.ready = false ∧ drain bs u = .next (t, kept))) := by
  cases hu : execByte b s with
  | next u =>
    refine ⟨u, rfl, ?_⟩
    cases hr : u.ready with
    | true =>
      obtain ⟨rfl, rfl⟩ : u = t ∧ (if s.takesByte then bs else b :: bs) = kept := by
        simpa [drain, hu, hr] using h
      refine .inl ⟨rfl, rfl, ?_⟩
      cases hs : s.ready <;> simp [State.takesByte, hs]
    | false => exact .inr ⟨rfl, by simpa [drain, hu, hr] using h⟩
  | fault r => simp [drain, hu] at h
  | refused r => simp [drain, hu] at h

/-- A packet that is ready stays ready whatever byte comes (R69). -/
theorem ready_eq_false_of_execByte {b : Byte} {s u : State} (h : execByte b s = .next u) (hu : u.ready = false) :
    s.ready = false := by
  rw [State.ready_eq_false_iff] at hu ⊢
  exact fun hst => hu (execByte_next_of_payloadReady h hst ▸ hst)

/-- Settles O49, by induction on the bytes available. -/
theorem drainIsASequenceOfByteSteps : Obligations.DrainIsASequenceOfByteSteps := by
  intro bs
  induction bs with
  | nil =>
    intro kept s t h
    obtain ⟨rfl, rfl⟩ : s = t ∧ [] = kept := by simpa [drain] using h
    exact ⟨0, Nat.le_refl 0, rfl, fun m u h1 h0 => by omega, .inr ⟨rfl, rfl⟩, by simp⟩
  | cons b bs ih =>
    intro kept s t h
    obtain ⟨u, hu, ⟨hready, rfl, rfl⟩ | ⟨hready, hrest⟩⟩ := drain_cons_cases h
    · exact ⟨1, by simp, execAll_cons_next_iff.2 ⟨_, hu, rfl⟩, fun m v h1 h2 => by omega, .inl hready, by simp⟩
    · obtain ⟨n, hn, hexec, hbefore, hend, hkept⟩ := ih kept u t hrest
      have hs := ready_eq_false_of_execByte hu hready
      refine ⟨n + 1, Nat.succ_le_succ hn, execAll_cons_next_iff.2 ⟨u, hu, hexec⟩, fun m v h1 hm hv => ?_, ?_, ?_⟩
      · obtain ⟨m, rfl⟩ := Nat.exists_eq_add_of_le' h1
        obtain ⟨u', hu', hv'⟩ := execAll_cons_next_iff.1 hv
        obtain rfl : u = u' := Host.Outcome.next.inj (hu.symm.trans hu')
        cases m with
        | zero =>
          obtain rfl : u = v := by simpa [execAll] using hv'
          exact hready
        | succ m => exact hbefore (m + 1) v (by omega) (by omega) hv'
      · simpa using hend
      · simpa [hs, hready] using hkept

end Sys2Proof.Machine
end

section
/-! PROOF. The handler's side of a payload that is ready: ACK, which releases it (R77, R78, R85), and the read port
(R80, R81). -/

namespace Sys2Proof.Machine

/-- ACK writes `exp_len` and `st` (R77). -/
theorem exec_ack (s : State) : exec .ack s = .next ((s.setExpLen sentinel).setSt .awaitingSync) := rfl

/-- With ACK presented no byte is taken (R77). -/
theorem take_of_ack {inp : PortInput} (s : State) (h : inp.presents .ack) : take inp s = false := by
  obtain ⟨-, hd⟩ := h
  simp [← Bool.not_eq_true, take_iff, hd]

/-- In AwaitingSync ACK writes only `exp_len`, which is hidden there (R28, R78). -/
theorem State.agreeVisibly_of_ack {s t : State} (hst : s.st = .awaitingSync) (h : exec .ack s = .next t) :
    t.AgreeVisibly s := by
  obtain rfl := Host.Outcome.next.inj ((exec_ack s).symm.trans h)
  exact State.agreeVisibly_of_not_inFrame rfl hst.symm rfl rfl

/-- Settles O23: the state after the ACK and the state before it differ in hidden values only. -/
theorem ackInAwaitingSyncIsUnobservable : Obligations.AckInAwaitingSyncIsUnobservable :=
  fun _ _ k hs hst h => (State.agreeVisibly_of_ack hst h).observeRun_eq k (exec_keeps_inv hs h)

/-- Settles O22: a word of ACK's row decodes to ACK, which leaves a state outside PayloadReady. -/
theorem ackReturnsToAwaitingSync : Obligations.AckReturnsToAwaitingSync := by
  refine ⟨fun s => ⟨exec_ack s, rfl⟩, fun s w a rest hw hp => ?_⟩
  have hack : PortInput.presents ⟨false, w, a⟩ .ack :=
    ⟨rfl, decode_eq_ack_iff.2 (and_mask_eq_opWord_iff.1 hw)⟩
  exact ⟨_, (step_of_presents hp hack).trans (exec_ack _), rfl, take_of_ack _ hack, rfl, rfl,
    fun d => State.rdData_eq_none d rfl⟩

/-- Settles O24: NOP changes nothing, and BYTE changes nothing in PayloadReady. -/
theorem onlyAckOrResetReleasesThePayload : Obligations.OnlyAckOrResetReleasesThePayload := by
  intro s t hst h
  obtain ⟨inp, rest, hp, ⟨hrst, -⟩ | ⟨-, i, hi, hexec⟩⟩ := step_cases h
  · exact .inr ⟨inp, rest, hp, .inl hrst⟩
  obtain ⟨-, rfl⟩ | ⟨rfl, -⟩ | ⟨b, -, hb⟩ := exec_cases hexec
  · exact .inl ⟨hst, rfl⟩
  · exact .inr ⟨inp, rest, hp, .inr hi⟩
  · obtain rfl := execByte_next_of_payloadReady hb hst
    exact .inl ⟨hst, rfl⟩

/-- The window in which a read is defined (R81). -/
theorem State.readDefined_iff {s : State} {a : Byte} :
    s.readDefined a = true ↔ s.st = .payloadReady ∧ a.toNat < s.expLen.toNat := by
  simp [State.readDefined]

/-- Under the invariants the cells below `exp_len` of a payload that is ready hold bytes (R27). -/
theorem State.Inv.readCell_isSome {s : State} (h : s.Inv) (hst : s.st = .payloadReady) {k : Nat}
    (hk : k < s.expLen.toNat) : (s.readCell k).isSome = true := by
  obtain ⟨-, -, ⟨-, hdone⟩, hpay, -⟩ := h
  exact hpay (State.inFrame_iff.2 (.inr (.inr hst))) k (hdone (.inr hst) ▸ hk)

/-- Settles O34: in the window the read is the cell, which holds a byte, and outside it there is no value. -/
theorem readPortDefinedExactlyInWindow : Obligations.ReadPortDefinedExactlyInWindow := by
  intro s a hs
  have hcell : s.st = .payloadReady → a.toNat < s.expLen.toNat → s.rdData a = s.readCell a.toNat :=
    fun hst ha => if_pos (State.readDefined_iff.2 ⟨hst, ha⟩)
  refine ⟨⟨fun hsome => ?_, fun ⟨hst, ha⟩ => ?_⟩, hcell, fun _ _ => rfl⟩
  · refine State.readDefined_iff.1 (Decidable.byContradiction fun hundefined => ?_)
    rw [State.rdData, if_neg hundefined] at hsome
    simp at hsome
  · rw [hcell hst ha]
    exact hs.readCell_isSome hst ha

end Sys2Proof.Machine
end

section
/-! PROOF. BYTE gives up a frame only by a framing error (R87), and no operation lacks a meaning (R86, R94). -/

namespace Sys2Proof.Machine

/-- A LEN byte that is not accepted raises BadLength (R64, R87). -/
theorem State.framingError_badLength {s : State} {b : Byte} (hst : s.st = .lengthReceived)
    (hb : lenAccepted s.cfg b = false) : s.framingError b = some .badLength := by
  have hwindow : ¬(2 ≤ b.toNat ∧ b.toNat ≤ s.cfg.maxPayloadSize + 1) :=
    fun hacc => Bool.eq_false_iff.1 hb (lenAccepted_iff.2 hacc)
  exact (State.framingError_badLength_iff hst).2 (by omega)

/-- The rows of BYTE that lead from another state to AwaitingSync are the rows of the table of R87. -/
theorem framingError_of_execByte_awaitingSync {s t : State} {b : Byte} (h : execByte b s = .next t)
    (hs : s.st ≠ .awaitingSync) (ht : t.st = .awaitingSync) : ∃ e, s.framingError b = some e := by
  obtain ⟨-, rfl⟩ | ⟨hst, -⟩ | ⟨hst, -⟩ | ⟨-, -, rfl⟩ | ⟨hst, hb, -⟩ | ⟨-, -, rfl⟩ | ⟨hst, hb, -⟩ |
    ⟨hst, -, rfl⟩ | ⟨-, -, rfl⟩ | ⟨hst, hb, -⟩ := execByte_cases h
  · exact absurd ht hs
  · exact absurd hst hs
  · exact absurd hst hs
  · simp at ht
  · exact ⟨_, State.framingError_badSync hst hb⟩
  · simp at ht
  · exact ⟨_, State.framingError_badLength hst hb⟩
  · rw [State.setSt_st] at ht
    rcases State.afterPayloadByte_cases hst with ha | ha <;> simp [ha] at ht
  · simp at ht
  · exact ⟨_, State.framingError_badChecksum hst hb⟩

/-- AwaitingSync has no row in the table of R87: a byte that is not SYNC_BYTE is noise there. -/
theorem State.st_ne_awaitingSync_of_framingError {s : State} {b : Byte} {e : FramingError}
    (h : s.framingError b = some e) : s.st ≠ .awaitingSync := by
  obtain ⟨hst, -⟩ | ⟨hst, -⟩ | ⟨hst, -⟩ := State.framingError_cases h <;> simp [hst]

/-- Settles O30: the rows that return to AwaitingSync raise an error, and every error resynchronises. -/
theorem byteResynchronisesOnlyByFramingError : Obligations.ByteResynchronisesOnlyByFramingError := by
  intro s t b h
  rw [Option.isSome_iff_exists]
  constructor
  · rintro ⟨hs, ht⟩
    exact framingError_of_execByte_awaitingSync h hs ht
  · rintro ⟨e, he⟩
    obtain ⟨-, hresync⟩ := takes_and_resync_of_framingError he
    obtain rfl : s.resync = t := Host.Outcome.next.inj (hresync.symm.trans h)
    exact ⟨State.st_ne_awaitingSync_of_framingError he, rfl⟩

/-- Settles O41: an address is computed only while accumulating, where `fill` is below `exp_len`. -/
theorem everyOperationCompletes : Obligations.EveryOperationCompletes := by
  refine fun s i hs => ⟨exec_completes i hs, fun k hk => ?_⟩
  rw [State.storeAddress_eq, Option.ite_none_right_eq_some] at hk
  obtain ⟨⟨hst, -⟩, hfill⟩ := hk
  obtain rfl := Option.some.inj hfill
  exact hs.fill_lt_maxPayloadSize hst

end Sys2Proof.Machine
end

section
/-! PROOF. Reset overrides the operation presented (R99, R93), and a decoder no byte reaches is parked (R95, R105). -/

namespace Sys2Proof.Machine

/-- With reset asserted the word is not looked at: every register and cell is reset (R93, R99). -/
theorem runInput_of_reset {inp : PortInput} (s : State) (h : inp.rst = true) : runInput inp s = .next s.applyReset :=
  if_pos h

/-- With reset asserted no byte is taken, whatever the word (R25, R99). -/
theorem take_of_reset {inp : PortInput} (s : State) (h : inp.rst = true) : take inp s = false :=
  if_pos h

/-- Settles O37: the step resets a state that presents the rest, and reset keeps what is presented. -/
theorem resetOverridesTheOperation : Obligations.ResetOverridesTheOperation :=
  fun _ _ _ hp hrst => ⟨(step_of_pending hp).trans (runInput_of_reset _ hrst), take_of_reset _ hrst⟩

/-- A NOP presented only comes off the list of inputs (R57). -/
theorem step_of_nop {s : State} {inp : PortInput} {rest : List PortInput} (hp : s.pending = inp :: rest)
    (h : inp.presents .nop) : step s = .next (s.setPending rest) :=
  step_of_presents hp h

/-- Settles O10, by induction on the NOPs: each only comes off the list of inputs. -/
theorem parkedWhileNoByteArrives : Obligations.ParkedWhileNoByteArrives := by
  intro ops
  induction ops with
  | nil =>
    rintro s rest - rfl
    rfl
  | cons inp ops ih =>
    intro s rest hnops hp
    obtain ⟨hnop, hlater⟩ := List.forall_mem_cons.1 hnops
    rw [List.length_cons, run_succ_of_next _ (step_of_nop hp hnop)]
    exact ih (s.setPending (ops ++ rest)) rest hlater rfl

end Sys2Proof.Machine
end

section
/-! PROOF. The host presents nothing (D16, log 4). -/

namespace Sys2Proof.Machine

/-- Settles O8: the empty-list row of `step`, beside `step_of_pending` for the other row. -/
theorem nothingPresentedNoStep : Obligations.NothingPresentedNoStep := by
  intro s hp
  rw [step, hp]

end Sys2Proof.Machine
end
